-- ==== Sys2Proof/Word.lean ====
section
/-! DEFINITION. The widths of the values the controller handles, the level of the select line and the
value a failed transport read yields. Numbering of bits: 00_scope R12 (bit 0 is the least significant). -/

namespace Sys2Proof

/-- A byte of the transport (20_memory R41) or of the scratch buffer (10_state R25). -/
abbrev Byte := BitVec 8

/-- A raw sample: "a value of width 10" (30_encoding R62, R64). -/
abbrev Sample := BitVec 10

/-- A rescaled sample, of width 16 (30_encoding R64, 42_scaled_reads R116). -/
abbrev Scaled := BitVec 16

/-- A frame seen as one 16-bit word (30_encoding R60). -/
abbrev FrameWord := BitVec 16

/-- A value of type FLOAT: its 64 bits in IEEE 754 binary64, the spec's default for this open
parameter (00_scope R9, 92_eei_decisions D6). PRESUMED, notes/assumptions/1.md. -/
abbrev FloatBits := BitVec 64

/-- A command as the host issues it: `cmd` in bits 2:0, `vref_present` in bit 3, `vref` in bits 67:4
(30_encoding R65, R66). The places of the last two are a DESIGN CHOICE, notes/assumptions/5.md. -/
abbrev CommandWord := BitVec 68

/-- The level of the select line, active-low (10_state R22). -/
inductive Level where
  /-- selected, logic 0 -/
  | active
  /-- deselected, logic 1 -/
  | inactive
deriving DecidableEq, Repr, Inhabited

/-- "logic 0 = active (select), logic 1 = inactive (deselect)" (10_state R22). -/
def Level.toBit : Level → BitVec 1
  | .active => 0#1
  | .inactive => 1#1

/-- The value e of a failed transport read (00_scope R9, 60_exceptions R132). Opaque to the controller:
no definition of the model looks at `token`; it only keeps different errors apart.
DESIGN CHOICE, notes/assumptions/12.md. -/
structure TransportError where
  token : Nat
deriving DecidableEq, Repr

end Sys2Proof
end

