-- ==== Sys2Proof/Config.lean ====
section
/-! DEFINITION. The constants the document fixes (00_scope R8), the format of FLOAT (00_scope R9), and the
free values: constants with no body, which no proof can evaluate. -/

namespace Sys2Proof

/-- A binary interchange format of IEEE 754: the width of the trailing significand and of the exponent. -/
structure FloatFormat where
  fracBits : Nat
  expBits : Nat
deriving DecidableEq, Repr

namespace Config

/-- FRAME_BYTES (00_scope R8): "exactly 2 bytes". -/
def frameBytes : Nat := 2

/-- BYTE0_MASK (00_scope R8): the bits of the first received byte that are kept. -/
def byte0Mask : Byte := 0b00000011#8

/-- BYTE0_SHIFT (00_scope R8). -/
def byte0Shift : Nat := 8

/-- RAW_MAX (00_scope R8): the largest raw sample and the divisor of the voltage scaling. -/
def rawMax : Nat := 1023

/-- U16_LSHIFT (00_scope R8). -/
def u16LShift : Nat := 6

/-- U16_RSHIFT (00_scope R8). -/
def u16RShift : Nat := 4

/-- VREF_DEFAULT (00_scope R8), the decimal 3.3, as numerator and denominator. -/
def vrefDefaultRatio : Nat × Nat := (33, 10)

/-- IEEE 754 binary64. -/
def binary64 : FloatFormat := ⟨52, 11⟩

/-- IEEE 754 binary32, in which some vectors of 95_test_vectors are printed. -/
def binary32 : FloatFormat := ⟨23, 8⟩

/-- FLOAT: the open parameter of 00_scope R9 at the default that 92_eei_decisions D6 names.
PRESUMED, notes/assumptions/1.md. -/
def floatFormat : FloatFormat := binary64

/-- The bits a product has when it is not a number: left open (93_implementation_defined U13), a function of
the two operands alone (42_scaled_reads R112). A free value, notes/assumptions/2.md. -/
opaque nanProduct : FloatBits → FloatBits → FloatBits

/-- The bits a quotient has when it is not a number: as `nanProduct`. A free value, notes/assumptions/2.md. -/
opaque nanQuotient : FloatBits → FloatBits → FloatBits

/-- A byte nothing constrains, the n-th drawn: the contents of BUF after a failed read or a hardware reset
(41_read_raw R98, 10_state R32). A free value, notes/assumptions/4.md. -/
opaque freeByte : Nat → Byte

/-- A level nothing constrains: the select line after a hardware reset (10_state R32).
A free value, notes/assumptions/9.md. -/
opaque freeLevel : Nat → Level

/-- A FLOAT nothing constrains: VREF after a hardware reset (10_state R32).
A free value, notes/assumptions/9.md. -/
opaque freeFloat : Nat → FloatBits

end Config
end Sys2Proof
end

