-- ==== Sys2Proof/Machine/Float.lean ====
section
/-! DEFINITION. The floating-point primitives of 42_scaled_reads R112: `float`, `fmul`, `fdiv`, correctly rounded to
nearest, ties to even, in an IEEE 754 binary format (92_eei_decisions D6; PRESUMED, notes/assumptions/1.md).
A FLOAT is its bits. The low bits but the sign are its MAGNITUDE, a Nat that orders the non-negative values; a finite
magnitude stands for a whole number of UNITS, the format's least positive value (2^-1074 in binary64). So products and
quotients are exact ratios of Nats, narrowed once by `roundRatio`. -/

namespace Sys2Proof.Machine

/-- The exponent bias. -/
def floatBias (F : FloatFormat) : Nat := 2 ^ (F.expBits - 1) - 1

/-- One unit is 2 to the power of minus this. -/
def unitExp (F : FloatFormat) : Nat := floatBias F + F.fracBits - 1

/-- The weight of the sign bit. -/
def signWeight (F : FloatFormat) : Nat := 2 ^ (F.expBits + F.fracBits)

/-- The magnitude of infinity: every smaller magnitude is finite, every greater one is not a number. -/
def infMag (F : FloatFormat) : Nat := (2 ^ F.expBits - 1) * 2 ^ F.fracBits

/-- The number of units a finite magnitude stands for: subnormal, or with the hidden bit and scaled. -/
def magUnits (F : FloatFormat) (mag : Nat) : Nat :=
  if mag < 2 ^ F.fracBits then mag
  else (2 ^ F.fracBits + mag % 2 ^ F.fracBits) * 2 ^ (mag / 2 ^ F.fracBits - 1)

/-- How many low bits a number of units loses when it is narrowed to the significand's width. -/
def roundShift (F : FloatFormat) (units : Nat) : Nat := units.log2 - F.fracBits

/-- The quotient rounded to the nearest whole number, ties to even. -/
def nearestEven (num den : Nat) : Nat :=
  if den < 2 * (num % den) ∨ (2 * (num % den) = den ∧ num / den % 2 = 1) then num / den + 1 else num / den

/-- The magnitude nearest to `num / den` units, ties to even; beyond the largest finite value, infinity. -/
def roundRatio (F : FloatFormat) (num den : Nat) : Nat :=
  let s := roundShift F (num / den)
  min (s * 2 ^ F.fracBits + nearestEven num (den * 2 ^ s)) (infMag F)

/-- Is the sign bit set? -/
def floatNeg (F : FloatFormat) (bits : Nat) : Bool := bits / signWeight F % 2 == 1

/-- The magnitude of the value with these bits. -/
def floatMag (F : FloatFormat) (bits : Nat) : Nat := bits % signWeight F

/-- The bits of a sign and a magnitude. -/
def floatPack (F : FloatFormat) (neg : Bool) (mag : Nat) : Nat := (if neg then signWeight F else 0) + mag

/-- IEEE 754 multiplication; `none` is not a number. -/
def mulBits (F : FloatFormat) (a b : Nat) : Option Nat :=
  let neg := floatNeg F a != floatNeg F b
  let ma := floatMag F a
  let mb := floatMag F b
  if infMag F < ma ∨ infMag F < mb then none
  else if ma = infMag F then if mb = 0 then none else some (floatPack F neg (infMag F))
  else if mb = infMag F then if ma = 0 then none else some (floatPack F neg (infMag F))
  else some (floatPack F neg (roundRatio F (magUnits F ma * magUnits F mb) (2 ^ unitExp F)))

/-- IEEE 754 division; `none` is not a number. -/
def divBits (F : FloatFormat) (a b : Nat) : Option Nat :=
  let neg := floatNeg F a != floatNeg F b
  let ma := floatMag F a
  let mb := floatMag F b
  if infMag F < ma ∨ infMag F < mb then none
  else if ma = infMag F then if mb = infMag F then none else some (floatPack F neg (infMag F))
  else if mb = infMag F then some (floatPack F neg 0)
  else if mb = 0 then if ma = 0 then none else some (floatPack F neg (infMag F))
  else some (floatPack F neg (roundRatio F (magUnits F ma * 2 ^ unitExp F) (magUnits F mb)))

/-- The value nearest to a non-negative ratio, in the format's bits. -/
def ratioBits (F : FloatFormat) (num den : Nat) : Nat := roundRatio F (num * 2 ^ unitExp F) den

/-- Is the FLOAT not a number? -/
def isNaN (a : FloatBits) : Bool := decide (infMag Config.floatFormat < floatMag Config.floatFormat a.toNat)

/-- Is the FLOAT finite (neither infinite nor not a number)? -/
def isFinite (a : FloatBits) : Bool := decide (floatMag Config.floatFormat a.toNat < infMag Config.floatFormat)

/-- A not-a-number with the bits of `free` where those are one: nothing but being not a number is fixed
(93_implementation_defined U13, notes/assumptions/2.md). -/
def nanFrom (free : FloatBits) : FloatBits :=
  if isNaN free then free else BitVec.ofNat 64 (infMag Config.floatFormat + 1)

/-- `float(n)`: the FLOAT of an integer, exact for 0..1023 (42_scaled_reads R112). -/
def floatOfNat (n : Nat) : FloatBits := BitVec.ofNat 64 (ratioBits Config.floatFormat n 1)

/-- `fmul(a, b)` (42_scaled_reads R112). -/
def fmul (a b : FloatBits) : FloatBits :=
  match mulBits Config.floatFormat a.toNat b.toNat with
  | some r => BitVec.ofNat 64 r
  | none => nanFrom (Config.nanProduct a b)

/-- `fdiv(a, b)` (42_scaled_reads R112). -/
def fdiv (a b : FloatBits) : FloatBits :=
  match divBits Config.floatFormat a.toNat b.toNat with
  | some r => BitVec.ofNat 64 r
  | none => nanFrom (Config.nanQuotient a b)

end Sys2Proof.Machine
end

