-- ==== Sys2Proof/Syntax.lean ====
section
/-! DEFINITION. The five operations of the controller (00_scope R7), one constructor per row of
spec/opcode_table.json. "There is no sixth operation." -/

namespace Sys2Proof

/-- The operations of the command interface (00_scope R7, 30_encoding R66). -/
inductive Instr where
  /-- CONSTRUCT (R80): its one operand is "an optional reference-voltage value (default 3.3)"; `none` is
  `vref_present` = 0, `some v` is `vref_present` = 1 with `vref` = v (30_encoding R65, R68). -/
  | construct (vref : Option FloatBits)
  /-- REFERENCE_VOLTAGE (R82). -/
  | referenceVoltage
  /-- READ_RAW (R90). -/
  | readRaw
  /-- READ_VOLTAGE (R110). -/
  | readVoltage
  /-- READ_SCALED_U16 (R115), also called `read_u16` (30_encoding R70). -/
  | readScaledU16
deriving DecidableEq, Repr

/-- The 3-bit command code of each operation (30_encoding R66). -/
def Instr.code : Instr → BitVec 3
  | .construct _ => 0b000#3
  | .referenceVoltage => 0b001#3
  | .readRaw => 0b010#3
  | .readVoltage => 0b011#3
  | .readScaledU16 => 0b100#3

end Sys2Proof
end

