-- ==== Sys2Proof/WellFormed.lean ====
section
/-! DEFINITION. What the spec asks of an instruction and of a command word.
No instruction is ill-formed as a term: the one operand, CONSTRUCT's reference voltage, may be any FLOAT value
"unchecked" (10_state R24, 92_eei_decisions D15). What can be wrong is a command word: its code may be reserved
(30_encoding R67), and its operand bits may hold something although no operand is meant. -/

namespace Sys2Proof

/-- Every instruction is well formed: the types carry every limit the spec sets (10_state R24, D15). -/
def Instr.wf : Instr → Bool
  | .construct _ => true
  | .referenceVoltage => true
  | .readRaw => true
  | .readVoltage => true
  | .readScaledU16 => true

/-- The field `cmd[2:0]` (30_encoding R65). -/
def CommandWord.cmd (w : CommandWord) : BitVec 3 := w.extractLsb' 0 3

/-- The operand `vref_present` of format CV (30_encoding R65). -/
def CommandWord.vrefPresent (w : CommandWord) : BitVec 1 := w.extractLsb' 3 1

/-- The operand `vref` of format CV (30_encoding R65). -/
def CommandWord.vref (w : CommandWord) : FloatBits := w.extractLsb' 4 64

/-- The code is one of the five of 30_encoding R66, not one of the reserved 101, 110 and 111 (R67). -/
def CommandWord.codeDefined (w : CommandWord) : Bool := decide (CommandWord.cmd w ≤ 0b100#3)

/-- The operand bits are zero where they carry nothing: in format C, and `vref` where `vref_present` = 0
(30_encoding R65, R67). A word that is not canonical still decodes (notes/assumptions/6.md). -/
def CommandWord.operandsCanonical (w : CommandWord) : Bool :=
  if CommandWord.cmd w = 0b000#3 then
    CommandWord.vrefPresent w == 1#1 || CommandWord.vref w == 0#64
  else CommandWord.vrefPresent w == 0#1 && CommandWord.vref w == 0#64

end Sys2Proof
end

