-- ==== Sys2Proof/Decode.lean ====
section
/-! DEFINITION. The decoder, total on every command word, and the encoder, both from the tables of 30_encoding
(R65 to R68). -/

namespace Sys2Proof

/-- CONSTRUCT's operand as the word carries it: `vref` if `vref_present` = 1, nothing otherwise, "whatever it
holds" (30_encoding R67, R68). -/
def vrefOperand (w : CommandWord) : Option FloatBits :=
  if CommandWord.vrefPresent w = 1#1 then some (CommandWord.vref w) else none

/-- "A decoder is total: every 3-bit value decodes to one of the five operations or to reserved"
(30_encoding R66); `none` is reserved (R67). The operand bits of a format-C word are not looked at:
DESIGN CHOICE, notes/assumptions/6.md. -/
def decode (w : CommandWord) : Option Instr :=
  match (CommandWord.cmd w).toNat with
  | 0 => some (.construct (vrefOperand w))
  | 1 => some .referenceVoltage
  | 2 => some .readRaw
  | 3 => some .readVoltage
  | 4 => some .readScaledU16
  | _ => none

/-- A command word from its three parts (30_encoding R65). -/
def packCommand (vref : FloatBits) (present : BitVec 1) (code : BitVec 3) : CommandWord := (vref ++ present) ++ code

/-- A format-C word: the code and nothing else (30_encoding R65). -/
def encodeC (code : BitVec 3) : CommandWord := packCommand 0#64 0#1 code

/-- A format-CV word: the code, `vref_present` and `vref` (30_encoding R65). -/
def encodeCV (code : BitVec 3) : Option FloatBits → CommandWord
  | none => packCommand 0#64 0#1 code
  | some v => packCommand v 1#1 code

/-- The word of each operation, canonical in its operand bits (30_encoding R65, R66). -/
def encode : Instr → CommandWord
  | .construct v => encodeCV 0b000#3 v
  | .referenceVoltage => encodeC 0b001#3
  | .readRaw => encodeC 0b010#3
  | .readVoltage => encodeC 0b011#3
  | .readScaledU16 => encodeC 0b100#3

/-- The command word whose bits are the low `nbits` bits of `w`, numbered as spec/opcode_table.json numbers
them; every higher bit is 0. -/
def commandOfBits (nbits w : Nat) : CommandWord := BitVec.ofNat 68 (w % 2 ^ nbits)

/-- The instruction the decoder reads from an instruction whose bits are `w`. -/
def decodeTableWord (nbits w : Nat) : Option Instr := decode (commandOfBits nbits w)

end Sys2Proof
end

