-- ==== Sys2Proof/Machine/State.lean ====
section
/-! DEFINITION. The state of the controller (10_state R20), the inputs of its interfaces and what a run shows
(00_scope R11), as plain data; the reasons a step can stop; the state after reset. -/

namespace Sys2Proof.Machine

/-- The sequencer position PHASE (10_state R26). -/
inductive Phase where
  /-- before CONSTRUCT -/
  | unbuilt
  /-- no operation in hand -/
  | idle
  /-- CS has been driven to 0, the transport has not yet been asked -/
  | selected
  /-- the transport has been asked and has not answered -/
  | wait
  /-- the transport has answered, CS is still 0 -/
  | answered
deriving DecidableEq, Repr

/-- The phases of the document's "active": SELECTED, WAIT and ANSWERED (10_state R26). -/
def Phase.active : Phase → Bool
  | .unbuilt => false
  | .idle => false
  | .selected => true
  | .wait => true
  | .answered => true

/-- OP, the operation in hand (10_state R27). -/
inductive ReadOp where
  | readRaw
  | readVoltage
  | readScaledU16
deriving DecidableEq, Repr

/-- ANS, the kind of the transport's answer; "the bytes themselves are in BUF" (10_state R27). -/
inductive Answer where
  | ok
  | err (e : TransportError)
deriving DecidableEq, Repr

/-- An answer of the transport to a request for 2 bytes (20_memory R41); never answering is no answer. -/
inductive XferAnswer where
  /-- b0 is the first received byte, b1 the second -/
  | ok (b0 b1 : Byte)
  | err (e : TransportError)
deriving DecidableEq, Repr

/-- The interface events (00_scope R11). -/
inductive Event where
  /-- the controller drove the select line -/
  | csWrite (v : Level)
  /-- the controller asked the transport to read n bytes -/
  | xferReq (n : Nat)
  /-- the transport's answer -/
  | xferResp (r : XferAnswer)
deriving DecidableEq, Repr

/-- The value an operation returns, with its type (30_encoding R64). -/
inductive Value where
  /-- CONSTRUCT: no value -/
  | unit
  /-- REFERENCE_VOLTAGE -/
  | reference (v : FloatBits)
  /-- READ_RAW -/
  | raw (n : Sample)
  /-- READ_VOLTAGE -/
  | volts (v : FloatBits)
  /-- READ_SCALED_U16 -/
  | scaled (u : Scaled)
deriving DecidableEq, Repr

/-- The outcome of an operation that has ended (00_scope R11). -/
inductive OpOutcome where
  | ok (v : Value)
  | err (e : TransportError)
deriving DecidableEq, Repr

/-- The machine. `cs` to `ans` are the state of 10_state R20; `commands`, `transport` and `resetLine` are what the
agents outside it present (20_memory R41 and R43, 70_reset_and_hazards R150); `trace` and `outcomes` are what a run
shows (00_scope R11); `draws` is the model's own counter of free values (notes/assumptions/4.md). -/
structure State where
  /-- CS, the level last driven on the select line (R21) -/
  cs : Level
  /-- VREF, the reference voltage (R24) -/
  vref : FloatBits
  /-- BUF[0], the first received byte of the last frame (R25) -/
  buf0 : Byte
  /-- BUF[1], the second received byte of the last frame (R25) -/
  buf1 : Byte
  /-- PHASE (R26) -/
  phase : Phase
  /-- OP (R27) -/
  op : ReadOp
  /-- ANS (R27) -/
  ans : Answer
  /-- the commands the host has still to issue, next first -/
  commands : List CommandWord
  /-- the answers the transport will give, next first; empty is silence -/
  transport : List XferAnswer
  /-- the block's reset input is asserted -/
  resetLine : Bool
  /-- the event trace of the run, oldest first -/
  trace : List Event
  /-- the outcomes of the operations that have ended, oldest first -/
  outcomes : List OpOutcome
  /-- how many free values have been drawn -/
  draws : Nat
deriving DecidableEq, Repr

/-- No fault stops this machine: its one exception, TransportError, is an outcome of an operation after which the
controller goes on (60_exceptions R130, R138), and "There is no illegal-operation exception, no alignment or access
fault, no arithmetic exception". So the type has no constructor (notes/assumptions/21.md). -/
inductive Fault
deriving DecidableEq, Repr

/-- The situations "the model refuses" (60_exceptions R147). Each is safe: it "errs toward unprovable". -/
inductive Refusal where
  /-- Raised by `exec` for an instruction that has no meaning in the model yet; none is left. Safe. -/
  | notModelled (mnemonic : String)
  /-- Raised by any operation but CONSTRUCT while PHASE = UNBUILT (40_configuration R81). Safe. -/
  | notConstructed
  /-- Raised by CONSTRUCT while PHASE = IDLE (40_configuration R81: "constructed once"). Safe. -/
  | alreadyConstructed
  /-- Raised by any operation issued while PHASE is SELECTED, WAIT or ANSWERED (70_reset_and_hazards R155). Safe. -/
  | operationInHand
  /-- Raised by the fetch of a command whose code is 101, 110 or 111 (30_encoding R67). Safe. -/
  | reservedCommand (cmd : BitVec 3)
deriving DecidableEq, Repr

/-- The machine right after reset (10_state R32, 70_reset_and_hazards R150): PHASE is UNBUILT and no event has
happened. The spec leaves CS, VREF, BUF, OP and ANS unspecified; the values here are named in
notes/assumptions/3.md (DESIGN CHOICE), the value of `draws` in notes/assumptions/4.md. -/
def State.reset : State where
  cs := .active
  vref := 0#64
  buf0 := 0#8
  buf1 := 0#8
  phase := .unbuilt
  op := .readRaw
  ans := .ok
  commands := []
  transport := []
  resetLine := false
  trace := []
  outcomes := []
  draws := 0

end Sys2Proof.Machine
end

