-- ==== Sys2Proof/Machine/Operands.lean ====
section
/-! DEFINITION. The operand of CONSTRUCT (30_encoding R68) and the pure functions of a sample: `extract`
(30_encoding R62), `scale_u16` (42_scaled_reads R116) and the voltage scaling (42_scaled_reads R110).
No other operation has an operand (30_encoding R68). -/

namespace Sys2Proof.Machine

/-- "The constant 3.3 is the FLOAT value nearest to the decimal 3.3 in the chosen FLOAT format (in binary64,
0x400A666666666666)" (30_encoding R68). -/
def vrefDefault : FloatBits := 0x400A666666666666#64

/-- "The reference voltage to store is `vref` if `vref_present` = 1, and the constant 3.3 if `vref_present` = 0"
(30_encoding R68). -/
def vrefToStore : Option FloatBits → FloatBits
  | some v => v
  | none => vrefDefault

/-- The frame as one word, BUF[0] in bits 15:8 and BUF[1] in bits 7:0 (20_memory R44, 30_encoding R60). -/
def frameWord (b0 b1 : Byte) : FrameWord := b0 ++ b1

/-- `extract(b0, b1) = ((b0 & 0b00000011) << 8) | b1`, of width 10 (30_encoding R62). -/
def extract (b0 b1 : Byte) : Sample :=
  ((b0 &&& Config.byte0Mask).setWidth 10 <<< Config.byte0Shift) ||| b1.setWidth 10

/-- `scale_u16(raw) = (raw << 6) | (raw >> 4)`, of width 16 (42_scaled_reads R116, R118). -/
def scaleU16 (raw : Sample) : Scaled :=
  (raw.setWidth 16 <<< Config.u16LShift) ||| (raw.setWidth 16 >>> Config.u16RShift)

/-- `fdiv(fmul(float(raw), VREF), float(1023))`, product first (42_scaled_reads R110; the grouping is the spec's
choice, notes/assumptions/17.md). -/
def voltage (raw : Sample) (vref : FloatBits) : FloatBits :=
  fdiv (fmul (floatOfNat raw.toNat) vref) (floatOfNat Config.rawMax)

/-- What the release returns for each operation (41_read_raw R99). -/
def readResult (op : ReadOp) (vref : FloatBits) (b0 b1 : Byte) : Value :=
  match op with
  | .readRaw => .raw (extract b0 b1)
  | .readVoltage => .volts (voltage (extract b0 b1) vref)
  | .readScaledU16 => .scaled (scaleU16 (extract b0 b1))

end Sys2Proof.Machine
end

