-- ==== Sys2Proof/Machine/Ops.lean ====
section
/-! DEFINITION. The operations the meanings are made of: the primitives of 00_scope R13, the four steps of a
transaction (41_read_raw R96 to R99), taking the one exception (60_exceptions R135), and hardware reset
(70_reset_and_hazards R150, R151). -/

namespace Sys2Proof.Machine

/-- Append an event to the trace (00_scope R11). -/
def emit (e : Event) (s : State) : State := { s with trace := s.trace ++ [e] }

/-- `CS <- v`: "writes the state element CS and appends CsWrite(v) to the event trace" (00_scope R13), "whether or
not it changes the level" (20_memory R42). -/
def driveCs (v : Level) (s : State) : State := emit (.csWrite v) { s with cs := v }

/-- `PHASE <- p` (00_scope R13). -/
def setPhase (p : Phase) (s : State) : State := { s with phase := p }

/-- `VREF <- v` (00_scope R13). -/
def storeVref (v : FloatBits) (s : State) : State := { s with vref := v }

/-- `BUF[0] <- b0 ; BUF[1] <- b1` (41_read_raw R91). -/
def fillBuf (b0 b1 : Byte) (s : State) : State := { s with buf0 := b0, buf1 := b1 }

/-- `BUF[0], BUF[1] <- any values` (41_read_raw R98): two free values (notes/assumptions/4.md). -/
def drawBuf (s : State) : State :=
  { s with buf0 := Config.freeByte s.draws, buf1 := Config.freeByte (s.draws + 1), draws := s.draws + 2 }

/-- The operation in hand ends with outcome o (00_scope R11, R13). -/
def endWith (o : OpOutcome) (s : State) : State := { s with outcomes := s.outcomes ++ [o] }

/-- Take the exception TransportError(e) (60_exceptions R135): the select line is driven to 1, PHASE is IDLE, and
the operation ends with `Err(e)`, e unchanged (R131). "Nothing is saved: there is no saved program counter, status
word, mode or stack." There is no return from it: "There is no return-from-trap operation, because entry saved
nothing and changed no mode" (R138); the next operation is accepted as after a success. -/
def takeTransportError (e : TransportError) (s : State) : State :=
  endWith (.err e) (setPhase .idle (driveCs .inactive s))

/-- Step `select` (41_read_raw R96): `OP <- op; CS <- 0; PHASE <- SELECTED`, event CsWrite(0). -/
def select (op : ReadOp) (s : State) : State := setPhase .selected (driveCs .active { s with op := op })

/-- Step `request` (41_read_raw R97): `PHASE <- WAIT`, event XferReq(2). -/
def request (s : State) : State := setPhase .wait (emit (.xferReq Config.frameBytes) s)

/-- Step `answer` (41_read_raw R98), the transport's step, with answer r: the bytes into BUF or, on a failure, any
values; ANS; `PHASE <- ANSWERED`; event XferResp(r). -/
def answer (r : XferAnswer) (s : State) : State :=
  match r with
  | .ok b0 b1 => setPhase .answered (emit (.xferResp r) { fillBuf b0 b1 s with ans := .ok })
  | .err e => setPhase .answered (emit (.xferResp r) { drawBuf s with ans := .err e })

/-- Step `release` (41_read_raw R99): `CS <- 1; PHASE <- IDLE`, event CsWrite(1), then the outcome. OP and ANS are
not written (notes/assumptions/13.md). -/
def release (s : State) : State :=
  match s.ans with
  | .ok => endWith (.ok (readResult s.op s.vref s.buf0 s.buf1)) (setPhase .idle (driveCs .inactive s))
  | .err e => takeTransportError e s

/-- In WAIT: take the transport's next answer and release, or go on waiting while there is none. "Nothing obliges
this step ever to happen" (41_read_raw R98, R101). -/
def awaitAnswer (s : State) : State :=
  match s.transport with
  | [] => s
  | r :: rest => release (answer r { s with transport := rest })

/-- One transaction as one step (41_read_raw R90): select, request, and, if the transport answers, answer and
release; if it does not, the state that waits in WAIT with CS = 0 (R101). -/
def transaction (op : ReadOp) (s : State) : State := awaitAnswer (request (select op s))

/-- Go on with the operation in hand, from whichever of SELECTED, WAIT and ANSWERED the state is in. -/
def continueOperation (s : State) : State :=
  match s.phase with
  | .unbuilt => s
  | .idle => s
  | .selected => awaitAnswer (request s)
  | .wait => awaitAnswer s
  | .answered => release s

/-- A read operation issued by the host: accepted in IDLE only (40_configuration R81, 70_reset_and_hazards R155). -/
def readOperation (op : ReadOp) (s : State) : Host.Outcome State Fault Refusal :=
  match s.phase with
  | .unbuilt => .refused .notConstructed
  | .idle => .next (transaction op s)
  | .selected => .refused .operationInHand
  | .wait => .refused .operationInHand
  | .answered => .refused .operationInHand

/-- Hardware reset re-applied (70_reset_and_hazards R150, R151): "returns the block to UNBUILT with everything
unspecified again", with no interface event. CS, VREF and BUF become free values; OP and ANS, meaningless in UNBUILT,
are not written; a new run begins, so the trace and the outcomes are empty (R162); the request on the reset input is
served. Notes/assumptions/9.md and 14.md. -/
def hardwareReset (s : State) : State :=
  { drawBuf s with
    cs := Config.freeLevel s.draws
    vref := Config.freeFloat s.draws
    phase := .unbuilt
    resetLine := false
    trace := []
    outcomes := [] }

end Sys2Proof.Machine
end

