-- ==== Sys2Proof/Machine/Configuration.lean ====
section
/-! DEFINITION. The configuration operations CONSTRUCT and REFERENCE_VOLTAGE (40_configuration). -/

namespace Sys2Proof.Machine

/-- The effect of CONSTRUCT (40_configuration R80): `VREF <- v; CS <- 1; PHASE <- IDLE; return`. -/
def constructed (v : Option FloatBits) (s : State) : State :=
  endWith (.ok .unit) (setPhase .idle (driveCs .inactive (storeVref (vrefToStore v) s)))

/-- CONSTRUCT (40_configuration R80): accepted in UNBUILT only (R81). -/
def execConstruct (v : Option FloatBits) (s : State) : Host.Outcome State Fault Refusal :=
  match s.phase with
  | .unbuilt => .next (constructed v s)
  | .idle => .refused .alreadyConstructed
  | .selected => .refused .operationInHand
  | .wait => .refused .operationInHand
  | .answered => .refused .operationInHand

/-- REFERENCE_VOLTAGE (40_configuration R82): `return VREF`, accepted in IDLE only. -/
def execReferenceVoltage (s : State) : Host.Outcome State Fault Refusal :=
  match s.phase with
  | .unbuilt => .refused .notConstructed
  | .idle => .next (endWith (.ok (.reference s.vref)) s)
  | .selected => .refused .operationInHand
  | .wait => .refused .operationInHand
  | .answered => .refused .operationInHand

end Sys2Proof.Machine
end

