-- ==== Sys2Proof/Machine/Reads.lean ====
section
/-! DEFINITION. The three read operations (41_read_raw, 42_scaled_reads). Each is one transaction; they differ in
the value the release returns (41_read_raw R99). -/

namespace Sys2Proof.Machine

/-- READ_RAW (41_read_raw R90). -/
def execReadRaw (s : State) : Host.Outcome State Fault Refusal := readOperation .readRaw s

/-- READ_VOLTAGE (42_scaled_reads R110): exactly one transaction. -/
def execReadVoltage (s : State) : Host.Outcome State Fault Refusal := readOperation .readVoltage s

/-- READ_SCALED_U16 (42_scaled_reads R115): exactly one transaction. -/
def execReadScaledU16 (s : State) : Host.Outcome State Fault Refusal := readOperation .readScaledU16 s

end Sys2Proof.Machine
end

