-- ==== Sys2Proof/Machine/Dispatch.lean ====
section
/-! DEFINITION. The one dispatch from an instruction to its meaning. -/

namespace Sys2Proof.Machine

def exec (i : Instr) (s : State) : Host.Outcome State Fault Refusal :=
  match i with
  | .construct v => Sys2Proof.Machine.execConstruct v s
  | .referenceVoltage => Sys2Proof.Machine.execReferenceVoltage s
  | .readRaw => Sys2Proof.Machine.execReadRaw s
  | .readVoltage => Sys2Proof.Machine.execReadVoltage s
  | .readScaledU16 => Sys2Proof.Machine.execReadScaledU16 s

end Sys2Proof.Machine
end

