-- ==== Sys2Proof/Machine/Sequencer.lean ====
section
/-! DEFINITION. What a step calls: taking the host's next command, and the event-level machine of 41_read_raw
R96 to R100 (`microStep`), in which one step is one interface event or the end of an operation that has none
(00_scope R10). -/

namespace Sys2Proof.Machine

/-- The command interface (20_memory R43): the controller takes a command when no operation is in hand. -/
def accepts (s : State) : Bool := !s.phase.active

/-- Take the host's next command word, decode it and give it to `run`; a reserved code is refused (30_encoding R67);
with no command the controller "does nothing" (60_exceptions R146). -/
def issueNext (run : Instr → State → Host.Outcome State Fault Refusal) (s : State) : Host.Outcome State Fault Refusal :=
  match s.commands with
  | [] => .next s
  | w :: rest =>
    match decode w with
    | none => .refused (.reservedCommand (CommandWord.cmd w))
    | some i => run i { s with commands := rest }

/-- Issue a read at the event level: step `select` alone (41_read_raw R96). -/
def beginRead (op : ReadOp) (s : State) : Host.Outcome State Fault Refusal :=
  match s.phase with
  | .unbuilt => .refused .notConstructed
  | .idle => .next (select op s)
  | .selected => .refused .operationInHand
  | .wait => .refused .operationInHand
  | .answered => .refused .operationInHand

/-- What issuing an operation does at the event level: CONSTRUCT and REFERENCE_VOLTAGE have at most one event and
run whole; a read begins with step `select`. -/
def issue (i : Instr) (s : State) : Host.Outcome State Fault Refusal :=
  match i with
  | .construct v => execConstruct v s
  | .referenceVoltage => execReferenceVoltage s
  | .readRaw => beginRead .readRaw s
  | .readVoltage => beginRead .readVoltage s
  | .readScaledU16 => beginRead .readScaledU16 s

/-- Step `answer` if the transport has an answer (41_read_raw R98); otherwise the controller waits on (R101). -/
def takeAnswer (s : State) : State :=
  match s.transport with
  | [] => s
  | r :: rest => answer r { s with transport := rest }

/-- The event-level machine: one step is one of `select`, `request`, `answer` and `release` (41_read_raw R96 to R99),
an operation without a transaction, or a hardware reset. -/
def microStep (s : State) : Host.Outcome State Fault Refusal :=
  if s.resetLine then .next (hardwareReset s)
  else
    match s.phase with
    | .unbuilt => issueNext issue s
    | .idle => issueNext issue s
    | .selected => .next (request s)
    | .wait => .next (takeAnswer s)
    | .answered => .next (release s)

/-- The event-level machine as a machine of its own, to be run beside `Sys2Proof.core`. -/
def microCore : Host.Core where
  State := State
  Fault := Fault
  Refusal := Refusal
  step := microStep
  reset := State.reset

end Sys2Proof.Machine
end

