-- ==== Sys2Proof/Machine/Step.lean ====
section
/-! DEFINITION. One step of the machine, and where a step takes its next instruction from. -/

namespace Sys2Proof.Machine

/-- One step (notes/assumptions/10.md): a hardware reset if the reset input is asserted; otherwise, with no operation
in hand, the host's next command, decoded and executed (a whole transaction if the transport answers); otherwise the
operation in hand goes on. -/
def step (s : State) : Host.Outcome State Fault Refusal :=
  if s.resetLine then .next (hardwareReset s)
  else if accepts s then issueNext exec s
  else .next (continueOperation s)

/-- `s` with the command whose bits are the low `nbits` bits of `w` as the very next one a step takes: it stands
first among the host's commands, the reset input is not asserted, and an operation in hand, which a step would
otherwise go on with, is dropped (notes/assumptions/7.md). -/
def State.withFetchWord (s : State) (nbits w : Nat) : State :=
  { s with
    commands := commandOfBits nbits w :: s.commands
    resetLine := false
    phase := if s.phase.active then .idle else s.phase
    cs := if s.phase.active then .inactive else s.cs }

end Sys2Proof.Machine
end

