-- ==== Sys2Proof/Machine/Environment.lean ====
section
/-! DEFINITION. The moves of the agents outside the controller (00_scope R6): between any two steps the host may
issue a command, the transport may supply an answer, the reset input may be asserted (notes/assumptions/7.md, 8.md
and 9.md). -/

namespace Sys2Proof.Machine

/-- An input of the machine. -/
inductive Input where
  /-- the host adds a command to those it will issue (20_memory R43) -/
  | command (w : CommandWord)
  /-- the transport settles its next answer (20_memory R41) -/
  | answer (r : XferAnswer)
  /-- the reset input is asserted (70_reset_and_hazards R151) -/
  | reset
deriving DecidableEq, Repr

/-- The state once an input has arrived. -/
def applyInput (i : Input) (s : State) : State :=
  match i with
  | .command w => { s with commands := s.commands ++ [w] }
  | .answer r => { s with transport := s.transport ++ [r] }
  | .reset => { s with resetLine := true }

end Sys2Proof.Machine
end

