-- ==== Sys2Proof/Safety.lean ====
section
/-! DEFINITION. What the statements are made of: the invariant of the reachable states (10_state R23 and R31,
41_read_raw R92 to R95), reachability under the inputs of Machine/Environment.lean, and the end of a run
(70_reset_and_hazards R162). -/

namespace Sys2Proof.Machine

/-- The command of a read operation. -/
def readInstr : ReadOp → Instr
  | .readRaw => .readRaw
  | .readVoltage => .readVoltage
  | .readScaledU16 => .readScaledU16

/-- "CS = 1 whenever PHASE = IDLE; CS = 0 whenever PHASE is SELECTED, WAIT or ANSWERED; CS is unspecified when
PHASE = UNBUILT" (10_state R23). -/
abbrev CsMatchesPhase (s : State) : Prop :=
  (s.phase = .idle → s.cs = .inactive) ∧ (s.phase.active = true → s.cs = .active)

/-- Where a trace stands in a transaction: outside a select window, or inside one at one of three points
(41_read_raw R92). -/
inductive Window where
  | released
  | selected
  | requested
  | answered
deriving DecidableEq, Repr

/-- The only order events may come in: [CsWrite(0), XferReq(2), XferResp(r), CsWrite(1)] for a transaction
(41_read_raw R92, R93), and CsWrite(1) alone for CONSTRUCT (40_configuration R80). -/
def Window.next : Window → Event → Option Window
  | .released, .csWrite .active => some .selected
  | .released, .csWrite .inactive => some .released
  | .selected, .xferReq n => if n = 2 then some .requested else none
  | .requested, .xferResp _ => some .answered
  | .answered, .csWrite .inactive => some .released
  | _, _ => none

/-- Read a trace from a window; `none` if an event comes out of order. -/
def scanTrace : Window → List Event → Option Window
  | w, [] => some w
  | w, e :: rest =>
    match w.next e with
    | some w' => scanTrace w' rest
    | none => none

/-- The window in which each phase leaves the trace (10_state R26). -/
def windowOf : Phase → Window
  | .unbuilt => .released
  | .idle => .released
  | .selected => .selected
  | .wait => .requested
  | .answered => .answered

/-- The level a trace last drove, starting from `v`. -/
def lastDriven : Level → List Event → Level
  | v, [] => v
  | _, .csWrite v :: rest => lastDriven v rest
  | v, .xferReq _ :: rest => lastDriven v rest
  | v, .xferResp _ :: rest => lastDriven v rest

/-- The transport's answers in a trace, in order. -/
def answersIn : List Event → List XferAnswer
  | [] => []
  | .csWrite _ :: rest => answersIn rest
  | .xferReq _ :: rest => answersIn rest
  | .xferResp r :: rest => r :: answersIn rest

/-- The outcomes of read operations among the outcomes, in order: all but those of CONSTRUCT and
REFERENCE_VOLTAGE. -/
def readOutcomes : List OpOutcome → List OpOutcome
  | [] => []
  | .ok .unit :: rest => readOutcomes rest
  | .ok (.reference _) :: rest => readOutcomes rest
  | o :: rest => o :: readOutcomes rest

/-- An outcome a read may have for its one answer, the stored reference voltage being `vref`: a value computed from
that frame alone, or the transport's error unchanged (41_read_raw R94, R95; 60_exceptions R131). -/
def AnswerGives (vref : FloatBits) : XferAnswer → OpOutcome → Prop
  | .ok b0 b1, o => ∃ op, o = .ok (readResult op vref b0 b1)
  | .err e, o => o = .err e

/-- The answer the operation in hand has received and not yet returned: in ANSWERED, what ANS and BUF hold
(10_state R27). -/
def pendingAnswer (s : State) : List XferAnswer :=
  match s.phase with
  | .unbuilt => []
  | .idle => []
  | .selected => []
  | .wait => []
  | .answered =>
    match s.ans with
    | .ok => [.ok s.buf0 s.buf1]
    | .err e => [.err e]

/-- What holds in every reachable state (10_state R31). -/
structure State.Inv (s : State) : Prop where
  /-- 10_state R23 -/
  cs_matches_phase : CsMatchesPhase s
  /-- "CS always equals the level of the line from the first drive on" (10_state R21) -/
  cs_is_last_driven : lastDriven s.cs s.trace = s.cs
  /-- before CONSTRUCT nothing has happened (70_reset_and_hazards R150) -/
  unbuilt_is_quiet : s.phase = .unbuilt → s.trace = [] ∧ s.outcomes = []
  /-- the events come in the order of 41_read_raw R92, and PHASE says where -/
  trace_follows_protocol : scanTrace .released s.trace = some (windowOf s.phase)
  /-- one transaction, one outcome: the outcomes of the reads are those of the answers, one each, in order
  (41_read_raw R94, R95, 60_exceptions R131, R133) -/
  outcomes_come_from_answers : ∃ done, answersIn s.trace = done ++ pendingAnswer s ∧
    List.Forall₂ (AnswerGives s.vref) done (readOutcomes s.outcomes)

/-- The states the machine can be in: from reset, by steps of the machine and by inputs from outside, in any order
and with any commands and answers. -/
inductive Reachable : State → Prop where
  | reset : Reachable State.reset
  | step {s t : State} : Reachable s → Machine.step s = .next t → Reachable t
  | input {s : State} (i : Input) : Reachable s → Reachable (applyInput i s)

/-- "The run is finished when the list is exhausted and PHASE = IDLE" (70_reset_and_hazards R162). -/
abbrev Finished (s : State) : Prop := s.commands = [] ∧ s.phase = .idle

/-- How many of these commands are read operations, that is, how many answers of the transport they take. -/
def readsIn : List CommandWord → Nat
  | [] => 0
  | w :: rest =>
    match decode w with
    | some .readRaw => readsIn rest + 1
    | some .readVoltage => readsIn rest + 1
    | some .readScaledU16 => readsIn rest + 1
    | some (.construct _) => readsIn rest
    | some .referenceVoltage => readsIn rest
    | none => readsIn rest

/-- A command that has a meaning in IDLE: any but CONSTRUCT and the reserved codes (40_configuration R81). -/
def acceptedInIdle (w : CommandWord) : Bool :=
  match decode w with
  | some (.construct _) => false
  | some .referenceVoltage => true
  | some .readRaw => true
  | some .readVoltage => true
  | some .readScaledU16 => true
  | none => false

/-- "VREF is finite and not negative" (70_reset_and_hazards R163, P4): VREF >= 0 as a number (42_scaled_reads R113), so
the zero whose sign bit is set, -0.0, is among them. -/
abbrev FiniteNonneg (v : FloatBits) : Prop :=
  isFinite v = true ∧
    (floatNeg Config.floatFormat v.toNat = false ∨ floatMag Config.floatFormat v.toNat = 0)

end Sys2Proof.Machine
end

