-- ==== Sys2Proof/Certificates/Slice0/Obligations.lean ====
section
/-! DEFINITION. The statements for the provers. Each docstring names the rule of spec/ or, where the statement rests
on a choice of the spec's own or of the model's, the sections and the log entries. -/

open Sys2Proof Sys2Proof.Machine

/-! ## Encodings of the frame and the pure functions -/

/-- 30_encoding R62: "extract(b0,b1) = ((b0 & 3) << 8) | b1 and the result is always in [0, 1023]"; and the raw sample
of a transaction, whichever read makes it, is `extract(BUF[0], BUF[1])` once the answer has filled BUF. -/
def Obligations.ExtractIsMaskShiftOr : Prop :=
  (∀ b0 b1 : Byte, (extract b0 b1).toNat = ((b0.toNat &&& 3) <<< 8) ||| b1.toNat ∧ (extract b0 b1).toNat ≤ 1023) ∧
  ∀ s : State, s.phase = .answered → s.ans = .ok →
    (s.op = .readRaw → (release s).outcomes = s.outcomes ++ [.ok (.raw (extract s.buf0 s.buf1))]) ∧
    (s.op = .readVoltage →
      (release s).outcomes = s.outcomes ++ [.ok (.volts (voltage (extract s.buf0 s.buf1) s.vref))]) ∧
    (s.op = .readScaledU16 →
      (release s).outcomes = s.outcomes ++ [.ok (.scaled (scaleU16 (extract s.buf0 s.buf1)))])

/-- 30_encoding R63 (marked derived there): the equivalent forms of `extract`. -/
def Obligations.ExtractEquivalentForms : Prop :=
  (∀ b0 b1 : Byte,
    extract b0 b1 = b0.extractLsb' 0 2 ++ b1 ∧
    (extract b0 b1).toNat = (b0 &&& 3#8).toNat * 256 + b1.toNat ∧
    (extract b0 b1).toNat = (b0.toNat * 256 + b1.toNat) % 1024 ∧
    extract b0 b1 = extract (b0 &&& 3#8) b1) ∧
  extract 0#8 0#8 = 0#10 ∧ (extract 3#8 255#8).toNat = 1023

/-- 20_memory R44 and 41_read_raw R91: "the first received byte's two least-significant bits are the two
most-significant bits of the 10-bit sample; the second received byte supplies the remaining 8"; the answer puts the
first byte in BUF[0] and the second in BUF[1] before the select line moves, and the release keeps them. -/
def Obligations.FrameIsBigEndian : Prop :=
  (∀ b0 b1 : Byte,
    (extract b0 b1).extractLsb' 8 2 = b0.extractLsb' 0 2 ∧
    (extract b0 b1).extractLsb' 0 8 = b1 ∧
    (frameWord b0 b1).extractLsb' 8 8 = b0 ∧
    (frameWord b0 b1).extractLsb' 0 8 = b1 ∧
    extract b0 b1 = (frameWord b0 b1).extractLsb' 0 10) ∧
  ∀ (b0 b1 : Byte) (s : State),
    (answer (.ok b0 b1) s).buf0 = b0 ∧ (answer (.ok b0 b1) s).buf1 = b1 ∧ (answer (.ok b0 b1) s).cs = s.cs ∧
    (release (answer (.ok b0 b1) s)).buf0 = b0 ∧ (release (answer (.ok b0 b1) s)).buf1 = b1

/-- 30_encoding R61 (marked derived there): "exactly 64 frames map to each sample value". -/
def Obligations.SixtyFourFramesPerSample : Prop :=
  ∀ raw : Sample, ∃ frames : List (Byte × Byte),
    frames.Nodup ∧ frames.length = 64 ∧ ∀ f : Byte × Byte, f ∈ frames ↔ extract f.1 f.2 = raw

/-- 42_scaled_reads R118: the formula `(raw << 6) | (raw >> 4)` bit for bit, with no bit lost, so that full scale
maps to 65535 exactly. -/
def Obligations.ScaleIsTheExactBitFormula : Prop :=
  (∀ raw : Sample, (scaleU16 raw).toNat = (raw.toNat <<< 6) ||| (raw.toNat >>> 4)) ∧ (scaleU16 1023#10).toNat = 65535

/-- 42_scaled_reads R116 and R117 (marked derived there): fields, order, inverse, and the distance from the exact
linear scale. -/
def Obligations.ScaleProperties : Prop :=
  (∀ raw : Sample, scaleU16 raw = raw ++ raw.extractLsb' 4 6 ∧
    (scaleU16 raw).toNat = raw.toNat * 64 + raw.toNat / 16 ∧
    (scaleU16 raw >>> 6).toNat = raw.toNat ∧
    (scaleU16 raw).toNat * 1023 ≤ raw.toNat * 65535 + 945 ∧
    raw.toNat * 65535 ≤ (scaleU16 raw).toNat * 1023 + 945) ∧
  (∀ raw : Sample, raw.toNat < 1023 →
    (scaleU16 (raw + 1#10)).toNat = (scaleU16 raw).toNat + 64 ∨
    (scaleU16 (raw + 1#10)).toNat = (scaleU16 raw).toNat + 65) ∧
  scaleU16 0#10 = 0#16 ∧
  (scaleU16 15#10).toNat * 1023 + 945 = 15 * 65535 ∧ (scaleU16 1008#10).toNat * 1023 = 1008 * 65535 + 945 ∧
  (scaleU16 15#10).toNat = (scaleU16 14#10).toNat + 64 ∧ (scaleU16 16#10).toNat = (scaleU16 15#10).toNat + 65 ∧
  (List.range 1024).countP (fun n => (scaleU16 (BitVec.ofNat 10 n)).toNat == n * 65535 / 1023) = 514 ∧
  (List.range 1024).countP (fun n => (scaleU16 (BitVec.ofNat 10 n)).toNat == (2 * n * 65535 + 1023) / 2046) = 790

/-- 10_state R22: "logic 0 = active (select), logic 1 = inactive (deselect)": the level a read drives first is logic 0,
the level it and CONSTRUCT leave is logic 1. -/
def Obligations.SelectIsActiveLow : Prop :=
  Level.active.toBit = 0#1 ∧ Level.inactive.toBit = 1#1 ∧
  (∀ op s, (select op s).cs.toBit = 0#1) ∧ (∀ s, (release s).cs.toBit = 1#1) ∧
  ∀ v s, (constructed v s).cs.toBit = 1#1

/-! ## Command words -/

/-- 30_encoding R65, R66, R68 (the spec's choices) and notes/assumptions/5.md (the model's): decoding an encoded
instruction gives it back, for every operand. -/
def Obligations.DecodeOfEncode : Prop :=
  ∀ i : Instr, i.wf = true → decode (encode i) = some i

/-- The other direction: a word whose operand bits are zero where they carry nothing is the word of the instruction it
decodes to (30_encoding R65, R67; notes/assumptions/5.md and 6.md). -/
def Obligations.EncodeOfDecode : Prop :=
  ∀ (w : CommandWord) (i : Instr), decode w = some i → CommandWord.operandsCanonical w = true → encode i = w

/-- 30_encoding R66 (the spec's choice): every 3-bit value decodes to one of the five operations or to reserved. That the
operand bits of codes 001 to 100 are not looked at is notes/assumptions/6.md, where they stand 5.md (DESIGN CHOICE). -/
def Obligations.DecoderIsTotal : Prop :=
  ∀ w : CommandWord,
    (CommandWord.cmd w = 0b000#3 ∧ decode w = some (.construct (vrefOperand w))) ∨
    (CommandWord.cmd w = 0b001#3 ∧ decode w = some .referenceVoltage) ∨
    (CommandWord.cmd w = 0b010#3 ∧ decode w = some .readRaw) ∨
    (CommandWord.cmd w = 0b011#3 ∧ decode w = some .readVoltage) ∨
    (CommandWord.cmd w = 0b100#3 ∧ decode w = some .readScaledU16) ∨
    (CommandWord.codeDefined w = false ∧ decode w = none)

/-- 30_encoding R67 (the spec's choice): a reserved code is refused, with no next state. -/
def Obligations.ReservedCodesRefused : Prop :=
  ∀ (s : State) (w : CommandWord) (rest : List CommandWord),
    s.resetLine = false → s.phase.active = false → s.commands = w :: rest →
    CommandWord.cmd w = 0b101#3 ∨ CommandWord.cmd w = 0b110#3 ∨ CommandWord.cmd w = 0b111#3 →
    step s = .refused (.reservedCommand (CommandWord.cmd w)) ∧
    microStep s = .refused (.reservedCommand (CommandWord.cmd w))

/-- 30_encoding R67, R68 (the spec's choices): CONSTRUCT's operand is `vref` if `vref_present` = 1 and is ignored,
whatever it holds, if `vref_present` = 0; the default is the FLOAT nearest to 3.3, in binary64 and in binary32. -/
def Obligations.ConstructOperandDecode : Prop :=
  (∀ w : CommandWord, CommandWord.cmd w = 0b000#3 → CommandWord.vrefPresent w = 1#1 →
    decode w = some (.construct (some (CommandWord.vref w)))) ∧
  (∀ w : CommandWord, CommandWord.cmd w = 0b000#3 → CommandWord.vrefPresent w = 0#1 →
    decode w = some (.construct none)) ∧
  (∀ v, vrefToStore (some v) = v) ∧
  (vrefToStore none).toNat = ratioBits Config.binary64 Config.vrefDefaultRatio.1 Config.vrefDefaultRatio.2 ∧
  (vrefToStore none).toNat = 0x400A666666666666 ∧
  ratioBits Config.binary32 Config.vrefDefaultRatio.1 Config.vrefDefaultRatio.2 = 0x40533333

/-- The words of 30_encoding R66 and of Prog-1 and Prog-5 (95_test_vectors), laid out as notes/assumptions/5.md says. -/
def Obligations.DecodesWrittenWords : Prop :=
  decodeTableWord 8 0b000 = some (.construct none) ∧
  decodeTableWord 8 0b001 = some .referenceVoltage ∧
  decodeTableWord 8 0b010 = some .readRaw ∧
  decodeTableWord 8 0b011 = some .readVoltage ∧
  decodeTableWord 8 0b100 = some .readScaledU16 ∧
  decodeTableWord 8 0b101 = none ∧ decodeTableWord 8 0b110 = none ∧ decodeTableWord 8 0b111 = none ∧
  decodeTableWord 68 0x40140000000000008 = some (.construct (some 0x4014000000000000#64)) ∧
  decodeTableWord 68 0x3FF00000000000008 = some (.construct (some 0x3FF0000000000000#64))

/-- With no operation in hand and the reset input not asserted, a step takes the host's next command and runs the
instruction it decodes to; nothing else is added (20_memory R43, 70_reset_and_hazards R155; notes/assumptions/7.md
and 10.md). -/
def Obligations.StepRunsTheDecodedCommand : Prop :=
  ∀ (s : State) (w : CommandWord) (rest : List CommandWord) (i : Instr),
    s.resetLine = false → s.phase.active = false → s.commands = w :: rest → decode w = some i →
    step s = exec i { s with commands := rest } ∧ microStep s = issue i { s with commands := rest }

/-! ## The configuration operations -/

/-- 40_configuration R80: CONSTRUCT "stores the reference voltage and drives the select line inactive; it touches
nothing else": from every state in UNBUILT it completes, with the operand or 3.3, one event CsWrite(1), outcome Ok()
and everything else unchanged; its command code is 000 and its word carries the operand. `vrefDefault` is 3.3;
`ConstructOperandDecode` gives its bits. -/
def Obligations.ConstructInitialises : Prop :=
  (∀ (v : Option FloatBits) (s : State), s.phase = .unbuilt →
    exec (.construct v) s = .next
      { s with
        vref := v.getD vrefDefault
        cs := .inactive
        phase := .idle
        trace := s.trace ++ [.csWrite .inactive]
        outcomes := s.outcomes ++ [.ok .unit] }) ∧
  ∀ v, CommandWord.cmd (encode (.construct v)) = 0b000#3 ∧ vrefOperand (encode (.construct v)) = v

/-- 40_configuration R82: REFERENCE_VOLTAGE returns the stored value bit for bit; "No side effects, cannot fail": from
every state in IDLE it completes, with no event and nothing else changed; its command code is 001. -/
def Obligations.ReferenceVoltageReturnsVref : Prop :=
  (∀ s : State, s.phase = .idle →
    exec .referenceVoltage s = .next { s with outcomes := s.outcomes ++ [.ok (.reference s.vref)] }) ∧
  CommandWord.cmd (encode .referenceVoltage) = 0b001#3

/-- 10_state R24: VREF is written once, by CONSTRUCT, with any value, unchecked; it "never changes after
construction", whatever runs and for however long; REFERENCE_VOLTAGE returns it; READ_VOLTAGE multiplies by it; READ_RAW
and READ_SCALED_U16 do not read it. `vrefDefault` is 3.3; `ConstructOperandDecode` gives its bits. -/
def Obligations.VrefIsWrittenOnce : Prop :=
  (∀ (v : FloatBits) (s : State), s.phase = .unbuilt → ∃ t, exec (.construct (some v)) s = .next t ∧ t.vref = v) ∧
  (∀ s : State, s.phase = .unbuilt → ∃ t, exec (.construct none) s = .next t ∧ t.vref = vrefDefault) ∧
  (∀ (k : Nat) (s t : State), s.phase ≠ .unbuilt → s.resetLine = false →
    core.run k s = .next t ∨ microCore.run k s = .next t → t.vref = s.vref) ∧
  (∀ s t : State, exec .referenceVoltage s = .next t → t.outcomes = s.outcomes ++ [.ok (.reference s.vref)]) ∧
  (∀ (s : State) (b0 b1 : Byte) (rest : List XferAnswer), s.phase = .idle → s.transport = .ok b0 b1 :: rest →
    ∃ t, exec .readVoltage s = .next t ∧
      t.outcomes = s.outcomes ++ [.ok (.volts (voltage (extract b0 b1) s.vref))]) ∧
  ∀ (v : FloatBits) (s t : State),
    (exec .readRaw s = .next t → exec .readRaw { s with vref := v } = .next { t with vref := v }) ∧
    (exec .readScaledU16 s = .next t → exec .readScaledU16 { s with vref := v } = .next { t with vref := v })

/-! ## The read operations -/

/-- 41_read_raw R90: READ_RAW from every state in IDLE, for each of the three things the transport can do: a frame, an
error (BUF then holds any values), or silence; the rest of the state is as it was. In any other phase it is refused
(R90, corner case e). Its command code is 010. That OP and ANS keep in IDLE what the operation wrote, where 10_state R27
calls them meaningless, is notes/assumptions/13.md (DESIGN CHOICE). -/
def Obligations.ReadRawTransaction : Prop :=
  (∀ (s : State) (b0 b1 : Byte) (rest : List XferAnswer), s.phase = .idle → s.transport = .ok b0 b1 :: rest →
    exec .readRaw s = .next
      { s with
        op := .readRaw
        ans := .ok
        buf0 := b0
        buf1 := b1
        cs := .inactive
        transport := rest
        trace := s.trace ++ [.csWrite .active, .xferReq 2, .xferResp (.ok b0 b1), .csWrite .inactive]
        outcomes := s.outcomes ++ [.ok (.raw (((b0 &&& 3#8).setWidth 10 <<< 8) ||| b1.setWidth 10))] }) ∧
  (∀ (s : State) (e : TransportError) (rest : List XferAnswer), s.phase = .idle → s.transport = .err e :: rest →
    ∃ (x y : Byte) (n : Nat), exec .readRaw s = .next
      { s with
        op := .readRaw
        ans := .err e
        buf0 := x
        buf1 := y
        draws := n
        cs := .inactive
        transport := rest
        trace := s.trace ++ [.csWrite .active, .xferReq 2, .xferResp (.err e), .csWrite .inactive]
        outcomes := s.outcomes ++ [.err e] }) ∧
  (∀ s : State, s.phase = .idle → s.transport = [] →
    exec .readRaw s = .next
      { s with
        op := .readRaw
        cs := .active
        phase := .wait
        trace := s.trace ++ [.csWrite .active, .xferReq 2] }) ∧
  (∀ s : State, s.phase ≠ .idle → ∃ r, exec .readRaw s = .refused r) ∧
  CommandWord.cmd (encode .readRaw) = 0b010#3

/-- 42_scaled_reads R110: READ_VOLTAGE is one transaction (the spec's decision D10) and returns
`(float(raw) * VREF) / 1023.0`, product first (the spec's decision D6; notes/assumptions/1.md and 17.md). OP and
ANS in IDLE are notes/assumptions/13.md (DESIGN CHOICE). -/
def Obligations.ReadVoltageTransaction : Prop :=
  (∀ (s : State) (b0 b1 : Byte) (rest : List XferAnswer), s.phase = .idle → s.transport = .ok b0 b1 :: rest →
    exec .readVoltage s = .next
      { s with
        op := .readVoltage
        ans := .ok
        buf0 := b0
        buf1 := b1
        cs := .inactive
        transport := rest
        trace := s.trace ++ [.csWrite .active, .xferReq 2, .xferResp (.ok b0 b1), .csWrite .inactive]
        outcomes := s.outcomes ++ [.ok (.volts
          (fdiv (fmul (floatOfNat (extract b0 b1).toNat) s.vref) (floatOfNat 1023)))] }) ∧
  (∀ (s : State) (e : TransportError) (rest : List XferAnswer), s.phase = .idle → s.transport = .err e :: rest →
    ∃ (x y : Byte) (n : Nat), exec .readVoltage s = .next
      { s with
        op := .readVoltage
        ans := .err e
        buf0 := x
        buf1 := y
        draws := n
        cs := .inactive
        transport := rest
        trace := s.trace ++ [.csWrite .active, .xferReq 2, .xferResp (.err e), .csWrite .inactive]
        outcomes := s.outcomes ++ [.err e] }) ∧
  (∀ s : State, s.phase = .idle → s.transport = [] →
    exec .readVoltage s = .next
      { s with
        op := .readVoltage
        cs := .active
        phase := .wait
        trace := s.trace ++ [.csWrite .active, .xferReq 2] }) ∧
  (∀ s : State, s.phase ≠ .idle → ∃ r, exec .readVoltage s = .refused r) ∧
  CommandWord.cmd (encode .readVoltage) = 0b011#3

/-- 42_scaled_reads R115: READ_SCALED_U16 is one transaction (the spec's decision D10; notes/assumptions/17.md) and
returns `(raw << 6) | (raw >> 4)` of one sample. OP and ANS in IDLE are notes/assumptions/13.md (DESIGN CHOICE). -/
def Obligations.ReadScaledU16Transaction : Prop :=
  (∀ (s : State) (b0 b1 : Byte) (rest : List XferAnswer), s.phase = .idle → s.transport = .ok b0 b1 :: rest →
    exec .readScaledU16 s = .next
      { s with
        op := .readScaledU16
        ans := .ok
        buf0 := b0
        buf1 := b1
        cs := .inactive
        transport := rest
        trace := s.trace ++ [.csWrite .active, .xferReq 2, .xferResp (.ok b0 b1), .csWrite .inactive]
        outcomes := s.outcomes ++ [.ok (.scaled
          (((extract b0 b1).setWidth 16 <<< 6) ||| ((extract b0 b1).setWidth 16 >>> 4)))] }) ∧
  (∀ (s : State) (e : TransportError) (rest : List XferAnswer), s.phase = .idle → s.transport = .err e :: rest →
    ∃ (x y : Byte) (n : Nat), exec .readScaledU16 s = .next
      { s with
        op := .readScaledU16
        ans := .err e
        buf0 := x
        buf1 := y
        draws := n
        cs := .inactive
        transport := rest
        trace := s.trace ++ [.csWrite .active, .xferReq 2, .xferResp (.err e), .csWrite .inactive]
        outcomes := s.outcomes ++ [.err e] }) ∧
  (∀ s : State, s.phase = .idle → s.transport = [] →
    exec .readScaledU16 s = .next
      { s with
        op := .readScaledU16
        cs := .active
        phase := .wait
        trace := s.trace ++ [.csWrite .active, .xferReq 2] }) ∧
  (∀ s : State, s.phase ≠ .idle → ∃ r, exec .readScaledU16 s = .refused r) ∧
  CommandWord.cmd (encode .readScaledU16) = 0b100#3

/-- 41_read_raw R92: a successful read has exactly the four events [CsWrite(0), XferReq(2), XferResp(Ok(b0, b1)),
CsWrite(1)], in this order, for every read operation: the line goes from 1 to 0 and back to 1, and the one transport
request lies between the two drives. An answer that comes while the operation waits adds the last two of them. -/
def Obligations.SuccessfulReadHasFourEvents : Prop :=
  (∀ (op : ReadOp) (s : State) (b0 b1 : Byte) (rest : List XferAnswer),
    CsMatchesPhase s → s.phase = .idle → s.transport = .ok b0 b1 :: rest →
    s.cs = .inactive ∧
    ∃ t, exec (readInstr op) s = .next t ∧ t.cs = .inactive ∧ t.phase = .idle ∧ t.transport = rest ∧
      t.trace = s.trace ++ [.csWrite .active, .xferReq 2, .xferResp (.ok b0 b1), .csWrite .inactive]) ∧
  (∀ (op : ReadOp) (s : State), s.phase = .idle → s.transport = [] →
    ∃ t, exec (readInstr op) s = .next t ∧ t.cs = .active ∧ t.phase = .wait ∧
      t.trace = s.trace ++ [.csWrite .active, .xferReq 2]) ∧
  ∀ (s : State) (b0 b1 : Byte) (rest : List XferAnswer),
    s.phase = .wait → s.resetLine = false → s.transport = .ok b0 b1 :: rest →
    ∃ t, step s = .next t ∧ t.cs = .inactive ∧ t.phase = .idle ∧ t.transport = rest ∧
      t.trace = s.trace ++ [.xferResp (.ok b0 b1), .csWrite .inactive]

/-- 41_read_raw R93: on the failure path the select line is restored before the error is handed on unchanged; the
trace is exactly [CsWrite(0), XferReq(2), XferResp(Err(e)), CsWrite(1)]; no sample is returned; VREF is unchanged;
PHASE is IDLE. So it is also when the error comes while the operation waits. -/
def Obligations.FailedReadRestoresTheSelectLine : Prop :=
  (∀ (op : ReadOp) (s : State) (e : TransportError) (rest : List XferAnswer),
    s.phase = .idle → s.transport = .err e :: rest →
    ∃ t, exec (readInstr op) s = .next t ∧ t.cs = .inactive ∧ t.phase = .idle ∧ t.vref = s.vref ∧
      t.outcomes = s.outcomes ++ [.err e] ∧ t.transport = rest ∧
      t.trace = s.trace ++ [.csWrite .active, .xferReq 2, .xferResp (.err e), .csWrite .inactive]) ∧
  ∀ (s : State) (e : TransportError) (rest : List XferAnswer),
    s.phase = .wait → s.resetLine = false → s.transport = .err e :: rest →
    ∃ t, step s = .next t ∧ t.cs = .inactive ∧ t.phase = .idle ∧ t.vref = s.vref ∧
      t.outcomes = s.outcomes ++ [.err e] ∧ t.transport = rest ∧
      t.trace = s.trace ++ [.xferResp (.err e), .csWrite .inactive]

/-- 60_exceptions R133: the three reads raise TransportError(e) "when, and only when, their one transport request is
answered Err(e)", once, at the end, after the line is back at 1; CONSTRUCT and REFERENCE_VOLTAGE never raise it. The second clause is of
a read that is waiting for its answer. -/
def Obligations.ErrorExactlyWhenTransportFails : Prop :=
  (∀ (i : Instr) (s t : State) (e : TransportError), exec i s = .next t →
    (.err e ∈ t.outcomes.drop s.outcomes.length ↔
      (∃ op, i = readInstr op) ∧ ∃ rest, s.transport = .err e :: rest) ∧
    (.err e ∈ t.outcomes.drop s.outcomes.length →
      t.outcomes = s.outcomes ++ [.err e] ∧ t.cs = .inactive ∧ t.phase = .idle ∧
      t.trace = s.trace ++ [.csWrite .active, .xferReq 2, .xferResp (.err e), .csWrite .inactive])) ∧
  ∀ (s t : State) (e : TransportError), s.phase = .wait → s.resetLine = false → step s = .next t →
    (.err e ∈ t.outcomes.drop s.outcomes.length ↔ ∃ rest, s.transport = .err e :: rest) ∧
    (.err e ∈ t.outcomes.drop s.outcomes.length →
      t.outcomes = s.outcomes ++ [.err e] ∧ t.cs = .inactive ∧ t.phase = .idle ∧
      t.trace = s.trace ++ [.xferResp (.err e), .csWrite .inactive])

/-- 60_exceptions R135: taking the exception drives the select line to 1 and ends the operation with Err(e), e
unchanged (R131); PHASE is IDLE; nothing is saved and nothing else changes. That OP and ANS, meaningless in IDLE (R136), are
among what does not change is notes/assumptions/13.md (DESIGN CHOICE). -/
def Obligations.TakingTheExceptionSavesNothing : Prop :=
  (∀ (e : TransportError) (s : State), takeTransportError e s =
    { s with
      cs := .inactive
      phase := .idle
      trace := s.trace ++ [.csWrite .inactive]
      outcomes := s.outcomes ++ [.err e] }) ∧
  ∀ (e : TransportError) (s : State), s.phase = .answered → s.resetLine = false → s.ans = .err e →
    microStep s = .next (takeTransportError e s)

/-- 41_read_raw R95 (marked derived there): the outcome of a read depends on nothing but the low two bits of the first
byte and the second byte of its own frame (and, for READ_VOLTAGE, on VREF): not on BUF, not on any earlier operation;
and every sample is returned for some frame. -/
def Obligations.ReadsDependOnlyOnTheirFrame : Prop :=
  (∀ (op : ReadOp) (s t : State) (b0 b1 c0 : Byte) (rest rest' : List XferAnswer),
    s.phase = .idle → t.phase = .idle → s.transport = .ok b0 b1 :: rest → t.transport = .ok c0 b1 :: rest' →
    b0 &&& 3#8 = c0 &&& 3#8 → (op = .readVoltage → s.vref = t.vref) →
    ∃ s' t' o, exec (readInstr op) s = .next s' ∧ exec (readInstr op) t = .next t' ∧
      s'.outcomes = s.outcomes ++ [o] ∧ t'.outcomes = t.outcomes ++ [o]) ∧
  ∀ raw : Sample, ∃ b0 b1 : Byte, ∀ (s : State) (rest : List XferAnswer),
    s.phase = .idle → s.transport = .ok b0 b1 :: rest →
    ∃ t, exec .readRaw s = .next t ∧ t.outcomes = s.outcomes ++ [.ok (.raw raw)]

/-- 60_exceptions R138 (marked derived there): after a failed read "the controller is in IDLE and accepts the next
operation exactly as after a success"; the failure has no effect on a later result. Here the next operation is run
after the failed read and, beside it, from the state before it with the same answers to come: it ends in the same
phase, at the same level, with the same new outcomes and events. -/
def Obligations.FailureLeavesNoMarkOnLaterOperations : Prop :=
  ∀ (op : ReadOp) (s : State) (e : TransportError) (rest : List XferAnswer),
    CsMatchesPhase s → s.phase = .idle → s.transport = .err e :: rest →
    ∃ t, exec (readInstr op) s = .next t ∧
      ∀ (i : Instr) (u : State), exec i { s with transport := rest } = .next u →
        ∃ v newOutcomes newEvents, exec i t = .next v ∧ v.phase = u.phase ∧ v.cs = u.cs ∧ v.vref = u.vref ∧
          v.transport = u.transport ∧ v.commands = u.commands ∧
          u.outcomes = s.outcomes ++ newOutcomes ∧ v.outcomes = t.outcomes ++ newOutcomes ∧
          u.trace = s.trace ++ newEvents ∧ v.trace = t.trace ++ newEvents

/-! ## Silence, waiting and hardware reset -/

/-- 41_read_raw R101: "If the transport never answers, the operation never ends": a read leads to WAIT with CS = 0 and no
outcome; every run from there, however long, stays there, with no outcome and the line at 0, and is no stop of the
machine; no operation can start. The refusal is the spec's decision D8; its name, CONSTRUCT's among them, is
notes/assumptions/11.md, and that waiting is a step to the same state is notes/assumptions/16.md (DESIGN CHOICE). -/
def Obligations.SilentTransportHangsForEver : Prop :=
  (∀ (op : ReadOp) (s : State), s.phase = .idle → s.transport = [] →
    ∃ t, exec (readInstr op) s = .next t ∧ t.phase = .wait ∧ t.cs = .active ∧ t.outcomes = s.outcomes ∧
      t.transport = [] ∧ t.resetLine = s.resetLine) ∧
  (∀ (k : Nat) (s : State), s.phase = .wait → s.transport = [] → s.resetLine = false →
    core.run k s = .next s ∧ microCore.run k s = .next s) ∧
  ∀ (i : Instr) (s : State), s.phase = .wait → exec i s = .refused .operationInHand

/-- 60_exceptions R146 and 70_reset_and_hazards R150 (the spec's decisions): with no command and no reset, the controller
in IDLE or in UNBUILT does nothing, for however long: no event, no outcome, no change. -/
def Obligations.QuietWithoutCommands : Prop :=
  ∀ (k : Nat) (s : State), s.phase.active = false → s.commands = [] → s.resetLine = false →
    core.run k s = .next s ∧ microCore.run k s = .next s

/-- 70_reset_and_hazards R150, R151 (the spec's decisions) and notes/assumptions/9.md and 14.md (the model's): an asserted
reset input returns the block to UNBUILT from every state, the hang included, with no interface event; CS, VREF and BUF
hold any values; a new run begins. -/
def Obligations.HardwareResetReturnsToUnbuilt : Prop :=
  ∀ s : State, s.resetLine = true →
    ∃ (c : Level) (v : FloatBits) (x y : Byte) (n : Nat),
      let t : State :=
        { s with
          cs := c
          vref := v
          buf0 := x
          buf1 := y
          draws := n
          phase := .unbuilt
          resetLine := false
          trace := []
          outcomes := [] }
      step s = .next t ∧ microStep s = .next t

/-- 10_state R32, 70_reset_and_hazards R150 (the spec's decisions): what the spec gives for the machine after reset. The
values of CS, VREF, BUF, OP and ANS there are the model's choice (notes/assumptions/3.md) and are not stated. -/
def Obligations.ResetIsUnbuiltAndSilent : Prop :=
  State.reset.phase = .unbuilt ∧ State.reset.trace = [] ∧ State.reset.outcomes = [] ∧ State.reset.commands = [] ∧
  State.reset.resetLine = false

/-- 40_configuration R81, 60_exceptions R147 and 70_reset_and_hazards R155 (the spec's decisions): exactly when an
operation is accepted, and by which name it is refused otherwise (the choice between two names that both apply to
CONSTRUCT is notes/assumptions/11.md). -/
def Obligations.AcceptedExactlyInItsPhase : Prop :=
  ∀ (i : Instr) (s : State),
    ((∃ t, exec i s = .next t) ↔
      ((∃ v, i = .construct v) ∧ s.phase = .unbuilt) ∨ ((∀ v, i ≠ .construct v) ∧ s.phase = .idle)) ∧
    (s.phase.active = true → exec i s = .refused .operationInHand) ∧
    (s.phase = .unbuilt → (∀ v, i ≠ .construct v) → exec i s = .refused .notConstructed) ∧
    (s.phase = .idle → (∃ v, i = .construct v) → exec i s = .refused .alreadyConstructed)

/-! ## The event-level machine -/

/-- 41_read_raw R96 to R99 (the spec's decision D2): the four steps, each with its one event. That the release keeps OP
and ANS into IDLE, where 10_state R27 calls them meaningless, is notes/assumptions/13.md (DESIGN CHOICE). -/
def Obligations.FourStepsOfATransaction : Prop :=
  (∀ (op : ReadOp) (s : State), s.phase = .idle →
    issue (readInstr op) s = .next
      { s with op := op, cs := .active, phase := .selected, trace := s.trace ++ [.csWrite .active] }) ∧
  (∀ s : State, s.resetLine = false → s.phase = .selected →
    microStep s = .next { s with phase := .wait, trace := s.trace ++ [.xferReq 2] }) ∧
  (∀ (s : State) (b0 b1 : Byte) (rest : List XferAnswer), s.resetLine = false → s.phase = .wait →
    s.transport = .ok b0 b1 :: rest →
    microStep s = .next
      { s with
        buf0 := b0
        buf1 := b1
        ans := .ok
        phase := .answered
        transport := rest
        trace := s.trace ++ [.xferResp (.ok b0 b1)] }) ∧
  (∀ (s : State) (e : TransportError) (rest : List XferAnswer), s.resetLine = false → s.phase = .wait →
    s.transport = .err e :: rest →
    ∃ (x y : Byte) (n : Nat), microStep s = .next
      { s with
        buf0 := x
        buf1 := y
        draws := n
        ans := .err e
        phase := .answered
        transport := rest
        trace := s.trace ++ [.xferResp (.err e)] }) ∧
  ∀ s : State, s.resetLine = false → s.phase = .answered →
    ∃ o, (s.ans = .ok → o = .ok (readResult s.op s.vref s.buf0 s.buf1)) ∧ (∀ e, s.ans = .err e → o = .err e) ∧
      microStep s = .next
        { s with
          cs := .inactive
          phase := .idle
          trace := s.trace ++ [.csWrite .inactive]
          outcomes := s.outcomes ++ [o] }

/-- 10_state R26 (the spec's decision D2): PHASE advances only along UNBUILT to IDLE and IDLE to SELECTED to WAIT to
ANSWERED to IDLE; "there is no other arc". -/
def Obligations.PhaseMovesOnlyAlongItsArcs : Prop :=
  ∀ s t : State, s.resetLine = false → microStep s = .next t →
    t.phase = s.phase ∨
    (s.phase = .unbuilt ∧ t.phase = .idle) ∨ (s.phase = .idle ∧ t.phase = .selected) ∨
    (s.phase = .selected ∧ t.phase = .wait) ∨ (s.phase = .wait ∧ t.phase = .answered) ∨
    (s.phase = .answered ∧ t.phase = .idle)

/-- 41_read_raw R100 (marked derived there): a read that the transport answers is one step of the machine and four of
the event-level machine, to the same state; one that it does not answer is one step and two, to the same state. -/
def Obligations.FourEventsAreOneStep : Prop :=
  ∀ (op : ReadOp) (s : State) (w : CommandWord) (rest : List CommandWord),
    s.resetLine = false → s.phase = .idle → s.commands = w :: rest → decode w = some (readInstr op) →
    ∃ t, step s = .next t ∧
      (s.transport ≠ [] → microCore.run 4 s = .next t ∧ t.phase = .idle) ∧
      (s.transport = [] → microCore.run 2 s = .next t ∧ t.phase = .wait)

/-- 41_read_raw R100 (marked derived there), one direction for whole runs: every run of the machine is, state for state
at its ends, a run of the event-level machine. -/
def Obligations.EveryRunIsAnEventLevelRun : Prop :=
  ∀ (k : Nat) (s t : State), core.run k s = .next t → ∃ n, k ≤ n ∧ microCore.run n s = .next t

/-- 41_read_raw R100 (marked derived there), "and conversely": every run of the event-level machine from a state with no
operation in hand to a state with none is a run of the machine; the event-level view adds no behaviour. -/
def Obligations.EventLevelRunsBetweenOperationsAreRuns : Prop :=
  ∀ (n : Nat) (s t : State), s.phase.active = false → t.phase.active = false →
    microCore.run n s = .next t → ∃ k, k ≤ n ∧ core.run k s = .next t

/-! ## Invariants and whole-machine rules -/

/-- The invariant of 10_state R31 holds at reset. -/
def Obligations.InvHoldsAtReset : Prop := State.Inv State.reset

/-- 10_state R31 (R21, R23, R24, R26 and 41_read_raw R92 to R95 with it): a step of the machine keeps the invariant, from
every state that has it. -/
def Obligations.StepKeepsInv : Prop :=
  ∀ s t : State, s.Inv → step s = .next t → t.Inv

/-- The same of the event-level machine, which also passes through SELECTED and ANSWERED. -/
def Obligations.MicroStepKeepsInv : Prop :=
  ∀ s t : State, s.Inv → microStep s = .next t → t.Inv

/-- Every state the machine can be in, with any commands, any answers and any resets coming from outside between any two
steps, has the invariant: the select line matches PHASE, the events follow the protocol, and the outcomes of the reads
are those of the answers, one each, in order, errors unchanged (10_state R31, 41_read_raw R92 to R95, 60_exceptions
R131). -/
def Obligations.ReachableStatesHaveInv : Prop :=
  ∀ s : State, Reachable s → s.Inv

/-- 10_state R23: "CS = 1 whenever PHASE = IDLE; CS = 0 whenever PHASE is SELECTED, WAIT or ANSWERED; CS is unspecified
when PHASE = UNBUILT": every run of either machine keeps it, from UNBUILT at either level (CONSTRUCT establishes it), on
the failure path as well; under silence CS stays 0 for ever (that waiting is a step to the same state is
notes/assumptions/16.md, DESIGN CHOICE). -/
def Obligations.SelectLineMatchesPhase : Prop :=
  (∀ s : State, s.phase = .unbuilt → CsMatchesPhase s) ∧
  (∀ (v : Option FloatBits) (s : State), s.phase = .unbuilt →
    ∃ t, exec (.construct v) s = .next t ∧ t.phase = .idle ∧ t.cs = .inactive) ∧
  (∀ (k : Nat) (s t : State), CsMatchesPhase s → core.run k s = .next t ∨ microCore.run k s = .next t →
    CsMatchesPhase t) ∧
  ∀ (k : Nat) (s : State), CsMatchesPhase s → s.phase = .wait → s.transport = [] → s.resetLine = false →
    ∃ t, core.run k s = .next t ∧ microCore.run k s = .next t ∧ t.cs = .active

/-- 70_reset_and_hazards R158: "a model must not have a run in which an operation ends with CS = 0": a step, of either
machine, that adds an outcome leaves the line at 1 and PHASE at IDLE. -/
def Obligations.NoOperationEndsSelected : Prop :=
  ∀ s t : State, CsMatchesPhase s → step s = .next t ∨ microStep s = .next t →
    s.outcomes.length < t.outcomes.length →
    t.outcomes.length = s.outcomes.length + 1 ∧ t.cs = .inactive ∧ t.phase = .idle

/-- 20_memory R50: within a run the trace and the list of outcomes only grow at their end, "nothing is buffered, merged,
reordered or speculated". -/
def Obligations.TraceAndOutcomesOnlyGrow : Prop :=
  ∀ (k : Nat) (s t : State), s.resetLine = false → core.run k s = .next t ∨ microCore.run k s = .next t →
    s.trace <+: t.trace ∧ s.outcomes <+: t.outcomes ∧ t.resetLine = false

/-- 70_reset_and_hazards R151 (the spec's decision): CONSTRUCT "is the only way out of UNBUILT and it happens once": a step
that leaves UNBUILT runs a CONSTRUCT and ends in IDLE, and no run without a hardware reset comes back to UNBUILT. -/
def Obligations.OnlyConstructLeavesUnbuilt : Prop :=
  (∀ s t : State, s.phase = .unbuilt → step s = .next t ∨ microStep s = .next t → t.phase ≠ .unbuilt →
    t.phase = .idle ∧ ∃ w rest v, s.commands = w :: rest ∧ decode w = some (.construct v)) ∧
  ∀ (k : Nat) (s t : State), s.phase ≠ .unbuilt → s.resetLine = false →
    core.run k s = .next t ∨ microCore.run k s = .next t → t.phase ≠ .unbuilt

/-- 70_reset_and_hazards R161, R162 (the spec's decisions), the one liveness statement: "if the transport answers, the
operation returns": a list of operations that have a meaning in IDLE, with an answer for each read, runs to its end in
as many steps as there are operations, each with one outcome (one step for one operation is notes/assumptions/10.md). -/
def Obligations.RunFinishesIfTransportAnswers : Prop :=
  ∀ s : State, s.phase = .idle → s.resetLine = false → (∀ w ∈ s.commands, acceptedInIdle w = true) →
    readsIn s.commands ≤ s.transport.length →
    ∃ t, core.run s.commands.length s = .next t ∧ Finished t ∧
      t.outcomes.length = s.outcomes.length + s.commands.length ∧
      t.transport = s.transport.drop (readsIn s.commands)

/-! ## Floating point (42_scaled_reads R112, with FLOAT at its default, notes/assumptions/1.md) -/

/-- 42_scaled_reads R112: `float(n)` converts an integer n in 0..1023 exactly. -/
def Obligations.FloatOfSampleIsExact : Prop :=
  ∀ n : Nat, n ≤ 1023 →
    floatNeg Config.binary64 (floatOfNat n).toNat = false ∧ isFinite (floatOfNat n) = true ∧
    magUnits Config.binary64 (floatMag Config.binary64 (floatOfNat n).toNat) = n * 2 ^ 1074

/-- 42_scaled_reads R112: `fmul` returns "the correctly rounded product": of finite operands, the sign is the product of
the signs; a finite result is at least as near to the exact product as every other finite value, and even if another is
equally near; the result is infinite exactly from half a unit in the last place beyond the largest finite value on.
In units of 2^-1074 the exact product of `a` and `b` units is a * b / 2^1074. -/
def Obligations.ProductIsCorrectlyRounded : Prop :=
  ∀ a b : FloatBits, isFinite a = true → isFinite b = true →
    let F := Config.binary64
    let p := magUnits F (floatMag F a.toNat) * magUnits F (floatMag F b.toNat)
    let r := floatMag F (fmul a b).toNat
    floatNeg F (fmul a b).toNat = (floatNeg F a.toNat != floatNeg F b.toNat) ∧
    r ≤ infMag F ∧
    (r = infMag F ↔ (2 ^ 54 - 1) * 2 ^ 2044 * 2 ^ 1074 ≤ p) ∧
    (r < infMag F → ∀ m : Nat, m < infMag F →
      let dist (x : Nat) : Nat := ((p : Int) - (magUnits F x * 2 ^ 1074 : Nat)).natAbs
      dist r ≤ dist m ∧ (m ≠ r → dist r = dist m → r % 2 = 0))

/-- 42_scaled_reads R112: `fdiv` returns "the correctly rounded quotient", of a finite dividend and a finite divisor other
than zero, as above. In units of 2^-1074 the exact quotient of `a` and `b` units is a * 2^1074 / b. -/
def Obligations.QuotientIsCorrectlyRounded : Prop :=
  ∀ a b : FloatBits, isFinite a = true → isFinite b = true →
    floatMag Config.binary64 b.toNat ≠ 0 →
    let F := Config.binary64
    let n := magUnits F (floatMag F a.toNat) * 2 ^ 1074
    let d := magUnits F (floatMag F b.toNat)
    let r := floatMag F (fdiv a b).toNat
    floatNeg F (fdiv a b).toNat = (floatNeg F a.toNat != floatNeg F b.toNat) ∧
    r ≤ infMag F ∧
    (r = infMag F ↔ (2 ^ 54 - 1) * 2 ^ 2044 * d ≤ n) ∧
    (r < infMag F → ∀ m : Nat, m < infMag F →
      let dist (x : Nat) : Nat := ((n : Int) - (magUnits F x * d : Nat)).natAbs
      dist r ≤ dist m ∧ (m ≠ r → dist r = dist m → r % 2 = 0))

/-- 42_scaled_reads R111 and 95_test_vectors section 2.2, with R110 (a) for the zero: for a VREF that is finite and not
negative (P4 of 70_reset_and_hazards R163, -0.0 included), the voltage is a zero with VREF's sign at raw = 0, has VREF's
sign for every raw, and does not decrease as raw grows, whatever the roundings (the bits of FLOATs with a clear sign bit
are ordered as their values, infinity last); for VREF = -0.0 it is -0.0 throughout. FLOAT is notes/assumptions/1.md. -/
def Obligations.VoltageIsMonotone : Prop :=
  ∀ v : FloatBits, FiniteNonneg v →
    voltage 0#10 v = v &&& 0x8000000000000000#64 ∧
    (∀ raw : Sample, floatNeg Config.binary64 (voltage raw v).toNat = floatNeg Config.binary64 v.toNat) ∧
    (v = 0x8000000000000000#64 → ∀ raw : Sample, voltage raw v = 0x8000000000000000#64) ∧
    ∀ raw raw' : Sample, raw ≤ raw' → (voltage raw v).toNat ≤ (voltage raw' v).toNat

/-- 42_scaled_reads R110 (corner cases a and b) and R113: at raw = 0 the result is a zero with VREF's sign for every
finite VREF; at full scale with VREF = 3.3 it is the stored VREF bit for bit; a negated finite VREF gives the negated
result; +0.0 gives +0.0; +infinity gives not-a-number for raw = 0 and +infinity otherwise; not-a-number gives
not-a-number. From general knowledge of IEEE 754, as the spec marks it (G4). -/
def Obligations.VoltageAtSpecialValues : Prop :=
  (∀ v : FloatBits, isFinite v = true → voltage 0#10 v = v &&& 0x8000000000000000#64) ∧
  voltage 1023#10 0x400A666666666666#64 = 0x400A666666666666#64 ∧
  (∀ (raw : Sample) (v : FloatBits), isFinite v = true →
    voltage raw (v ^^^ 0x8000000000000000#64) = voltage raw v ^^^ 0x8000000000000000#64) ∧
  (∀ raw : Sample, voltage raw 0#64 = 0#64) ∧
  isNaN (voltage 0#10 0x7FF0000000000000#64) = true ∧
  (∀ raw : Sample, raw ≠ 0#10 → voltage raw 0x7FF0000000000000#64 = 0x7FF0000000000000#64) ∧
  ∀ (raw : Sample) (v : FloatBits), isNaN v = true → isNaN (voltage raw v) = true
end

