-- ==== Sys2Proof/Laws/State.lean ====
section
/-! SUPPORT. One lemma per field per primitive update of State. -/

namespace Sys2Proof.Machine

variable (s : State)

@[simp] theorem emit_cs (e : Event) : (emit e s).cs = s.cs := rfl
@[simp] theorem emit_vref (e : Event) : (emit e s).vref = s.vref := rfl
@[simp] theorem emit_buf0 (e : Event) : (emit e s).buf0 = s.buf0 := rfl
@[simp] theorem emit_buf1 (e : Event) : (emit e s).buf1 = s.buf1 := rfl
@[simp] theorem emit_phase (e : Event) : (emit e s).phase = s.phase := rfl
@[simp] theorem emit_op (e : Event) : (emit e s).op = s.op := rfl
@[simp] theorem emit_ans (e : Event) : (emit e s).ans = s.ans := rfl
@[simp] theorem emit_commands (e : Event) : (emit e s).commands = s.commands := rfl
@[simp] theorem emit_transport (e : Event) : (emit e s).transport = s.transport := rfl
@[simp] theorem emit_resetLine (e : Event) : (emit e s).resetLine = s.resetLine := rfl
@[simp] theorem emit_trace (e : Event) : (emit e s).trace = s.trace ++ [e] := rfl
@[simp] theorem emit_outcomes (e : Event) : (emit e s).outcomes = s.outcomes := rfl
@[simp] theorem emit_draws (e : Event) : (emit e s).draws = s.draws := rfl

@[simp] theorem driveCs_cs (v : Level) : (driveCs v s).cs = v := rfl
@[simp] theorem driveCs_vref (v : Level) : (driveCs v s).vref = s.vref := rfl
@[simp] theorem driveCs_buf0 (v : Level) : (driveCs v s).buf0 = s.buf0 := rfl
@[simp] theorem driveCs_buf1 (v : Level) : (driveCs v s).buf1 = s.buf1 := rfl
@[simp] theorem driveCs_phase (v : Level) : (driveCs v s).phase = s.phase := rfl
@[simp] theorem driveCs_op (v : Level) : (driveCs v s).op = s.op := rfl
@[simp] theorem driveCs_ans (v : Level) : (driveCs v s).ans = s.ans := rfl
@[simp] theorem driveCs_commands (v : Level) : (driveCs v s).commands = s.commands := rfl
@[simp] theorem driveCs_transport (v : Level) : (driveCs v s).transport = s.transport := rfl
@[simp] theorem driveCs_resetLine (v : Level) : (driveCs v s).resetLine = s.resetLine := rfl
@[simp] theorem driveCs_trace (v : Level) : (driveCs v s).trace = s.trace ++ [.csWrite v] := rfl
@[simp] theorem driveCs_outcomes (v : Level) : (driveCs v s).outcomes = s.outcomes := rfl
@[simp] theorem driveCs_draws (v : Level) : (driveCs v s).draws = s.draws := rfl

@[simp] theorem setPhase_cs (p : Phase) : (setPhase p s).cs = s.cs := rfl
@[simp] theorem setPhase_vref (p : Phase) : (setPhase p s).vref = s.vref := rfl
@[simp] theorem setPhase_buf0 (p : Phase) : (setPhase p s).buf0 = s.buf0 := rfl
@[simp] theorem setPhase_buf1 (p : Phase) : (setPhase p s).buf1 = s.buf1 := rfl
@[simp] theorem setPhase_phase (p : Phase) : (setPhase p s).phase = p := rfl
@[simp] theorem setPhase_op (p : Phase) : (setPhase p s).op = s.op := rfl
@[simp] theorem setPhase_ans (p : Phase) : (setPhase p s).ans = s.ans := rfl
@[simp] theorem setPhase_commands (p : Phase) : (setPhase p s).commands = s.commands := rfl
@[simp] theorem setPhase_transport (p : Phase) : (setPhase p s).transport = s.transport := rfl
@[simp] theorem setPhase_resetLine (p : Phase) : (setPhase p s).resetLine = s.resetLine := rfl
@[simp] theorem setPhase_trace (p : Phase) : (setPhase p s).trace = s.trace := rfl
@[simp] theorem setPhase_outcomes (p : Phase) : (setPhase p s).outcomes = s.outcomes := rfl
@[simp] theorem setPhase_draws (p : Phase) : (setPhase p s).draws = s.draws := rfl

@[simp] theorem storeVref_cs (v : FloatBits) : (storeVref v s).cs = s.cs := rfl
@[simp] theorem storeVref_vref (v : FloatBits) : (storeVref v s).vref = v := rfl
@[simp] theorem storeVref_buf0 (v : FloatBits) : (storeVref v s).buf0 = s.buf0 := rfl
@[simp] theorem storeVref_buf1 (v : FloatBits) : (storeVref v s).buf1 = s.buf1 := rfl
@[simp] theorem storeVref_phase (v : FloatBits) : (storeVref v s).phase = s.phase := rfl
@[simp] theorem storeVref_op (v : FloatBits) : (storeVref v s).op = s.op := rfl
@[simp] theorem storeVref_ans (v : FloatBits) : (storeVref v s).ans = s.ans := rfl
@[simp] theorem storeVref_commands (v : FloatBits) : (storeVref v s).commands = s.commands := rfl
@[simp] theorem storeVref_transport (v : FloatBits) : (storeVref v s).transport = s.transport := rfl
@[simp] theorem storeVref_resetLine (v : FloatBits) : (storeVref v s).resetLine = s.resetLine := rfl
@[simp] theorem storeVref_trace (v : FloatBits) : (storeVref v s).trace = s.trace := rfl
@[simp] theorem storeVref_outcomes (v : FloatBits) : (storeVref v s).outcomes = s.outcomes := rfl
@[simp] theorem storeVref_draws (v : FloatBits) : (storeVref v s).draws = s.draws := rfl

@[simp] theorem fillBuf_cs (b0 b1 : Byte) : (fillBuf b0 b1 s).cs = s.cs := rfl
@[simp] theorem fillBuf_vref (b0 b1 : Byte) : (fillBuf b0 b1 s).vref = s.vref := rfl
@[simp] theorem fillBuf_buf0 (b0 b1 : Byte) : (fillBuf b0 b1 s).buf0 = b0 := rfl
@[simp] theorem fillBuf_buf1 (b0 b1 : Byte) : (fillBuf b0 b1 s).buf1 = b1 := rfl
@[simp] theorem fillBuf_phase (b0 b1 : Byte) : (fillBuf b0 b1 s).phase = s.phase := rfl
@[simp] theorem fillBuf_op (b0 b1 : Byte) : (fillBuf b0 b1 s).op = s.op := rfl
@[simp] theorem fillBuf_ans (b0 b1 : Byte) : (fillBuf b0 b1 s).ans = s.ans := rfl
@[simp] theorem fillBuf_commands (b0 b1 : Byte) : (fillBuf b0 b1 s).commands = s.commands := rfl
@[simp] theorem fillBuf_transport (b0 b1 : Byte) : (fillBuf b0 b1 s).transport = s.transport := rfl
@[simp] theorem fillBuf_resetLine (b0 b1 : Byte) : (fillBuf b0 b1 s).resetLine = s.resetLine := rfl
@[simp] theorem fillBuf_trace (b0 b1 : Byte) : (fillBuf b0 b1 s).trace = s.trace := rfl
@[simp] theorem fillBuf_outcomes (b0 b1 : Byte) : (fillBuf b0 b1 s).outcomes = s.outcomes := rfl
@[simp] theorem fillBuf_draws (b0 b1 : Byte) : (fillBuf b0 b1 s).draws = s.draws := rfl

@[simp] theorem drawBuf_cs : (drawBuf s).cs = s.cs := rfl
@[simp] theorem drawBuf_vref : (drawBuf s).vref = s.vref := rfl
@[simp] theorem drawBuf_buf0 : (drawBuf s).buf0 = Config.freeByte s.draws := rfl
@[simp] theorem drawBuf_buf1 : (drawBuf s).buf1 = Config.freeByte (s.draws + 1) := rfl
@[simp] theorem drawBuf_phase : (drawBuf s).phase = s.phase := rfl
@[simp] theorem drawBuf_op : (drawBuf s).op = s.op := rfl
@[simp] theorem drawBuf_ans : (drawBuf s).ans = s.ans := rfl
@[simp] theorem drawBuf_commands : (drawBuf s).commands = s.commands := rfl
@[simp] theorem drawBuf_transport : (drawBuf s).transport = s.transport := rfl
@[simp] theorem drawBuf_resetLine : (drawBuf s).resetLine = s.resetLine := rfl
@[simp] theorem drawBuf_trace : (drawBuf s).trace = s.trace := rfl
@[simp] theorem drawBuf_outcomes : (drawBuf s).outcomes = s.outcomes := rfl
@[simp] theorem drawBuf_draws : (drawBuf s).draws = s.draws + 2 := rfl

@[simp] theorem endWith_cs (o : OpOutcome) : (endWith o s).cs = s.cs := rfl
@[simp] theorem endWith_vref (o : OpOutcome) : (endWith o s).vref = s.vref := rfl
@[simp] theorem endWith_buf0 (o : OpOutcome) : (endWith o s).buf0 = s.buf0 := rfl
@[simp] theorem endWith_buf1 (o : OpOutcome) : (endWith o s).buf1 = s.buf1 := rfl
@[simp] theorem endWith_phase (o : OpOutcome) : (endWith o s).phase = s.phase := rfl
@[simp] theorem endWith_op (o : OpOutcome) : (endWith o s).op = s.op := rfl
@[simp] theorem endWith_ans (o : OpOutcome) : (endWith o s).ans = s.ans := rfl
@[simp] theorem endWith_commands (o : OpOutcome) : (endWith o s).commands = s.commands := rfl
@[simp] theorem endWith_transport (o : OpOutcome) : (endWith o s).transport = s.transport := rfl
@[simp] theorem endWith_resetLine (o : OpOutcome) : (endWith o s).resetLine = s.resetLine := rfl
@[simp] theorem endWith_trace (o : OpOutcome) : (endWith o s).trace = s.trace := rfl
@[simp] theorem endWith_outcomes (o : OpOutcome) : (endWith o s).outcomes = s.outcomes ++ [o] := rfl
@[simp] theorem endWith_draws (o : OpOutcome) : (endWith o s).draws = s.draws := rfl

end Sys2Proof.Machine
end

