-- ==== Sys2Proof/Laws/Decode.lean ====
section
/-! SUPPORT. The fields of a packed command word, and the decoder by the field `cmd`. -/

namespace Sys2Proof

@[simp] theorem cmd_packCommand (v : FloatBits) (p : BitVec 1) (c : BitVec 3) :
    CommandWord.cmd (packCommand v p c) = c :=
  BitVec.extractLsb'_append_eq_right

@[simp] theorem vrefPresent_packCommand (v : FloatBits) (p : BitVec 1) (c : BitVec 3) :
    CommandWord.vrefPresent (packCommand v p c) = p := by
  apply BitVec.eq_of_toNat_eq
  have hp := p.isLt
  have hc := c.isLt
  simp only [CommandWord.vrefPresent, packCommand, BitVec.extractLsb'_toNat]
  erw [BitVec.toNat_append, BitVec.toNat_append]
  simp only [Nat.shiftLeft_eq, Nat.shiftRight_eq_div_pow]
  rw [← Nat.shiftLeft_eq, ← Nat.shiftLeft_add_eq_or_of_lt hc, Nat.shiftLeft_eq]
  rw [← Nat.shiftLeft_eq v.toNat, ← Nat.shiftLeft_add_eq_or_of_lt hp, Nat.shiftLeft_eq]
  omega

@[simp] theorem vref_packCommand (v : FloatBits) (p : BitVec 1) (c : BitVec 3) :
    CommandWord.vref (packCommand v p c) = v := by
  apply BitVec.eq_of_toNat_eq
  have hp := p.isLt
  have hc := c.isLt
  have hv := v.isLt
  simp only [CommandWord.vref, packCommand, BitVec.extractLsb'_toNat]
  erw [BitVec.toNat_append, BitVec.toNat_append]
  simp only [Nat.shiftLeft_eq, Nat.shiftRight_eq_div_pow]
  rw [← Nat.shiftLeft_eq, ← Nat.shiftLeft_add_eq_or_of_lt hc, Nat.shiftLeft_eq]
  rw [← Nat.shiftLeft_eq v.toNat, ← Nat.shiftLeft_add_eq_or_of_lt hp, Nat.shiftLeft_eq]
  omega

/-- A command word is the packing of its three parts. -/
theorem packCommand_fields (w : CommandWord) :
    packCommand (CommandWord.vref w) (CommandWord.vrefPresent w) (CommandWord.cmd w) = w := by
  apply BitVec.eq_of_toNat_eq
  have hw := w.isLt
  simp only [packCommand]
  erw [BitVec.toNat_append, BitVec.toNat_append]
  rw [← Nat.shiftLeft_add_eq_or_of_lt (CommandWord.cmd w).isLt,
    ← Nat.shiftLeft_add_eq_or_of_lt (CommandWord.vrefPresent w).isLt]
  simp only [CommandWord.vref, CommandWord.vrefPresent, CommandWord.cmd, BitVec.extractLsb'_toNat,
    Nat.shiftLeft_eq, Nat.shiftRight_eq_div_pow]
  omega

end Sys2Proof
end

