-- ==== Sys2Proof/Laws/Float.lean ====
section
/-! SUPPORT. Rounding: what `nearestEven` and `roundRatio` give, and how the finite magnitudes lie (42_scaled_reads
R112). -/

namespace Sys2Proof.Machine

/-- The rounded quotient lies within one half of the exact one, and a tie goes to the even one. -/
theorem nearestEven_spec (num den : Nat) (hd : 0 < den) :
    2 * num ≤ (2 * nearestEven num den + 1) * den ∧ (2 * nearestEven num den) * den ≤ 2 * num + den ∧
    ((2 * num = (2 * nearestEven num den + 1) * den ∨ (2 * nearestEven num den) * den = 2 * num + den) → nearestEven num den % 2 = 0) := by
  have hq := Nat.div_add_mod num den
  have hr := Nat.mod_lt num hd
  generalize hQ : num / den = q at *
  generalize hR : num % den = r at *
  have e1 : (2 * q + 1) * den = 2 * (den * q) + den := by ring
  have e2 : (2 * q) * den = 2 * (den * q) := by ring
  have e3 : (2 * (q + 1) + 1) * den = 2 * (den * q) + 3 * den := by ring
  have e4 : (2 * (q + 1)) * den = 2 * (den * q) + 2 * den := by ring
  unfold nearestEven
  rw [hQ, hR]
  split
  next h => rw [e3, e4]; refine ⟨by omega, by omega, ?_⟩; rintro (h' | h') <;> omega
  next h => rw [e1, e2]; refine ⟨by omega, by omega, ?_⟩; rintro (h' | h') <;> omega

/-- The units of a magnitude whose significand is `q` at scale `s`. -/
theorem magUnits_scale (F : FloatFormat) (s q : Nat) (hq : 2 ^ F.fracBits ≤ q ∨ s = 0) (hq' : q < 2 ^ (F.fracBits + 1)) :
    magUnits F (s * 2 ^ F.fracBits + q) = q * 2 ^ s := by
  have hP : 0 < 2 ^ F.fracBits := by positivity
  rw [pow_succ] at hq'
  unfold magUnits
  generalize 2 ^ F.fracBits = P at *
  split
  next h =>
    have : s = 0 := by
      by_contra hs
      rcases hq with h' | h'
      · have : P ≤ s * P := Nat.le_mul_of_pos_left _ (by omega)
        omega
      · exact hs h'
    subst this; simp
  next h =>
    have hPq : P ≤ q := by
      rcases hq with h' | h'
      · exact h'
      · subst h'; simp at h; omega
    obtain ⟨m, rfl⟩ := Nat.exists_eq_add_of_le hPq
    have e : s * P + (P + m) = m + P * (s + 1) := by ring
    rw [e, Nat.add_mul_mod_self_left, Nat.add_mul_div_left _ _ hP, Nat.mod_eq_of_lt (by omega), Nat.div_eq_of_lt (by omega)]
    simp

/-- A significand that has carried into the next binade. -/
theorem magUnits_carry (F : FloatFormat) (s : Nat) : magUnits F (s * 2 ^ F.fracBits + 2 ^ (F.fracBits + 1)) = 2 ^ (F.fracBits + 1) * 2 ^ s := by
  have := magUnits_scale F (s + 1) (2 ^ F.fracBits) (.inl le_rfl) (Nat.pow_lt_pow_right (by omega) (by omega))
  rw [show (s + 1) * 2 ^ F.fracBits + 2 ^ F.fracBits = s * 2 ^ F.fracBits + 2 ^ (F.fracBits + 1) by rw [pow_succ]; ring] at this
  rw [this, pow_succ, pow_succ]; ring

/-- The next magnitude stands for more. -/
theorem magUnits_step (F : FloatFormat) (m : Nat) : magUnits F m < magUnits F (m + 1) := by
  have hP : 0 < 2 ^ F.fracBits := by positivity
  by_cases hm : m < 2 ^ F.fracBits
  · have h1 := magUnits_scale F 0 m (.inr rfl) (by rw [pow_succ]; omega)
    have h2 := magUnits_scale F 0 (m + 1) (.inr rfl) (by rw [pow_succ]; omega)
    simp at h1 h2; rw [h1, h2]; omega
  · obtain ⟨s, q, hq, hq', e⟩ : ∃ s q, 2 ^ F.fracBits ≤ q ∧ q < 2 ^ (F.fracBits + 1) ∧ m = s * 2 ^ F.fracBits + q := by
      refine ⟨m / 2 ^ F.fracBits - 1, m % 2 ^ F.fracBits + 2 ^ F.fracBits, by omega, by rw [pow_succ]; have := Nat.mod_lt m hP; omega, ?_⟩
      have := Nat.div_add_mod m (2 ^ F.fracBits)
      have h1 : 1 ≤ m / 2 ^ F.fracBits := (Nat.one_le_div_iff hP).2 (by omega)
      obtain ⟨d, hd⟩ := Nat.exists_eq_add_of_le h1
      rw [hd] at this ⊢
      simp only [Nat.add_sub_cancel_left]
      generalize 2 ^ F.fracBits = P at *
      have : P * (1 + d) = P + d * P := by ring
      omega
    subst e
    rw [magUnits_scale F s q (.inl hq) hq']
    rcases Nat.lt_or_ge (q + 1) (2 ^ (F.fracBits + 1)) with h | h
    · rw [Nat.add_assoc, magUnits_scale F s (q + 1) (.inl (by omega)) h]
      exact Nat.mul_lt_mul_of_pos_right (by omega) (by positivity)
    · have : q + 1 = 2 ^ (F.fracBits + 1) := by omega
      rw [Nat.add_assoc, this, magUnits_carry]
      exact Nat.mul_lt_mul_of_pos_right (by omega) (by positivity)

/-- Magnitudes are ordered as the values they stand for. -/
theorem magUnits_strictMono (F : FloatFormat) : StrictMono (magUnits F) := strictMono_nat_of_lt_succ (magUnits_step F)

/-- The rounding with no bound on the exponent. -/
def rawRound (F : FloatFormat) (num den : Nat) : Nat :=
  let s := roundShift F (num / den)
  s * 2 ^ F.fracBits + nearestEven num (den * 2 ^ s)

/-- The rounding is the unbounded one, cut at infinity. -/
theorem roundRatio_eq (F num den) : roundRatio F num den = min (rawRound F num den) (infMag F) := rfl

/-- The exact ratio lies within half a step of the result, on either side, and a tie goes to an even magnitude. -/
theorem rawRound_spec (F : FloatFormat) (num den : Nat) (hd : 0 < den) (hf : 0 < F.fracBits) :
    let r := rawRound F num den
    2 * num ≤ (magUnits F r + magUnits F (r + 1)) * den ∧
    (0 < r → (magUnits F (r - 1) + magUnits F r) * den ≤ 2 * num) ∧
    (2 * num = (magUnits F r + magUnits F (r + 1)) * den → r % 2 = 0) ∧
    (0 < r → (magUnits F (r - 1) + magUnits F r) * den = 2 * num → r % 2 = 0) := by
  intro r
  set s := roundShift F (num / den) with hs
  set q := nearestEven num (den * 2 ^ s) with hq
  have hr : r = s * 2 ^ F.fracBits + q := rfl
  have hD : 0 < den * 2 ^ s := by positivity
  obtain ⟨h1, h2, h3⟩ := nearestEven_spec num (den * 2 ^ s) hD
  rw [← hq] at h1 h2 h3
  have hP : 0 < 2 ^ F.fracBits := by positivity
  have hPe : 2 ^ F.fracBits % 2 = 0 := by
    obtain ⟨k, hk⟩ := Nat.exists_eq_add_of_lt hf
    rw [hk, show 0 + k + 1 = k + 1 from by ring, pow_succ]; omega
  have hqub : num / (den * 2 ^ s) < 2 ^ (F.fracBits + 1) := by
    rw [← Nat.div_div_eq_div_mul]
    rcases Nat.eq_zero_or_pos (num / den) with h0 | h0
    · rw [h0]; simp
    · rw [Nat.div_lt_iff_lt_mul (by positivity), ← pow_add]
      have := Nat.lt_log2_self (n := num / den)
      refine lt_of_lt_of_le this (Nat.pow_le_pow_right (by omega) ?_)
      simp only [hs, roundShift]; omega
  have hqlb : 0 < s → 2 ^ F.fracBits ≤ num / (den * 2 ^ s) := by
    intro h
    rw [← Nat.div_div_eq_div_mul, Nat.le_div_iff_mul_le (by positivity), ← pow_add]
    have h0 : num / den ≠ 0 := by
      intro h0; rw [h0] at hs; simp [roundShift] at hs; omega
    refine le_trans (Nat.pow_le_pow_right (by omega) ?_) (Nat.log2_self_le h0)
    simp only [hs, roundShift] at h ⊢; omega
  have hql : num / (den * 2 ^ s) ≤ q := by rw [hq]; unfold nearestEven; split <;> omega
  have hqu : q ≤ num / (den * 2 ^ s) + 1 := by rw [hq]; unfold nearestEven; split <;> omega
  clear_value r q s
  have hqq : q ≤ 2 ^ (F.fracBits + 1) := by omega
  have hur : magUnits F r = q * 2 ^ s := by
    rcases Nat.lt_or_ge q (2 ^ (F.fracBits + 1)) with h | h
    · rw [hr]; refine magUnits_scale F s q ?_ h
      rcases Nat.eq_zero_or_pos s with h0 | h0
      · exact .inr h0
      · exact .inl (le_trans (hqlb h0) hql)
    · rw [hr, show q = 2 ^ (F.fracBits + 1) by omega, magUnits_carry]
  have hu1 : (q + 1) * 2 ^ s ≤ magUnits F (r + 1) := by
    rcases Nat.lt_or_ge (q + 1) (2 ^ (F.fracBits + 1)) with h | h
    · rw [hr, Nat.add_assoc, magUnits_scale F s (q + 1) ?_ h]
      rcases Nat.eq_zero_or_pos s with h0 | h0
      · exact .inr h0
      · exact .inl (le_trans (hqlb h0) (by omega))
    · rcases Nat.lt_or_ge q (2 ^ (F.fracBits + 1)) with h' | h'
      · rw [hr, Nat.add_assoc, show q + 1 = 2 ^ (F.fracBits + 1) by omega, magUnits_carry]
      · have e : r + 1 = (s + 1) * 2 ^ F.fracBits + (2 ^ F.fracBits + 1) := by
          rw [hr, show q = 2 ^ (F.fracBits + 1) by omega, pow_succ]; ring
        rw [e, magUnits_scale F (s + 1) _ (.inl (by omega)) (by rw [pow_succ]; omega), show q = 2 ^ (F.fracBits + 1) by omega, pow_succ, pow_succ]
        have : 0 < 2 ^ s := by positivity
        nlinarith
  have hnum := Nat.div_add_mod num (den * 2 ^ s)
  have hlow : q * (den * 2 ^ s) ≤ num ∧ q = num / (den * 2 ^ s) ∨ q = num / (den * 2 ^ s) + 1 := by
    rcases Nat.lt_or_ge (num / (den * 2 ^ s)) q with h | h
    · exact .inr (by omega)
    · have : q = num / (den * 2 ^ s) := by omega
      exact .inl ⟨by rw [this]; exact Nat.div_mul_le_self _ _, this⟩
  have hupper : (q + (q + 1)) * (den * 2 ^ s) ≤ (magUnits F r + magUnits F (r + 1)) * den := by
    calc _ = (q * 2 ^ s + (q + 1) * 2 ^ s) * den := by ring
      _ ≤ _ := Nat.mul_le_mul_right _ (by omega)
  have hreven : q % 2 = 0 → r % 2 = 0 := by
    intro h; rw [hr, Nat.add_mod, Nat.mul_mod, hPe, h]; simp
  have hlower : 0 < r → (magUnits F (r - 1) + magUnits F r) * den ≤ 2 * num ∧
      ((magUnits F (r - 1) + magUnits F r) * den = 2 * num → q % 2 = 0) := by
    intro h0
    have hlt : magUnits F (r - 1) < magUnits F r := magUnits_strictMono F (by omega)
    rcases hlow with ⟨h, _⟩ | h
    · have h4 : magUnits F r * den ≤ num := by rw [hur]; calc _ = q * (den * 2 ^ s) := by ring
                                                        _ ≤ num := h
      have h5 : (magUnits F (r - 1) + magUnits F r) * den < 2 * (magUnits F r * den) := by
        calc _ < (magUnits F r + magUnits F r) * den := Nat.mul_lt_mul_of_pos_right (by omega) hd
          _ = _ := by ring
      exact ⟨by omega, by omega⟩
    · have hq1 : r - 1 = s * 2 ^ F.fracBits + (q - 1) := by rw [hr]; exact Nat.add_sub_assoc (show 1 ≤ q by rw [h]; exact Nat.le_add_left 1 _) _
      have hu : magUnits F (r - 1) = (q - 1) * 2 ^ s := by
        rw [hq1]; refine magUnits_scale F s (q - 1) ?_ (by omega)
        rcases Nat.eq_zero_or_pos s with h0 | h0
        · exact .inr h0
        · have := hqlb h0; exact .inl (by omega)
      obtain ⟨p, hp⟩ : ∃ p, q = p + 1 := ⟨q - 1, by omega⟩
      have e : (magUnits F (r - 1) + magUnits F r) * den + den * 2 ^ s = 2 * q * (den * 2 ^ s) := by
        rw [hu, hur, hp]; simp only [Nat.add_sub_cancel]; ring
      exact ⟨by omega, fun h => h3 (.inr (by omega))⟩
  have h1' : 2 * num ≤ (q + (q + 1)) * (den * 2 ^ s) := by rwa [show q + (q + 1) = 2 * q + 1 by ring]
  refine ⟨le_trans h1' hupper, fun h0 => (hlower h0).1, ?_, fun h0 h => hreven ((hlower h0).2 h)⟩
  intro h
  have h : 2 * num = (magUnits F r + magUnits F (r + 1)) * den := h
  exact hreven (h3 (.inl (by rw [show 2 * q + 1 = q + (q + 1) by ring]; omega)))

/-- The FLOATs of premise P4 are the finite ones with a clear sign bit, and -0.0. -/
theorem finiteNonneg_iff (v : FloatBits) :
    FiniteNonneg v ↔ v.toNat < infMag Config.floatFormat ∨ v = 0x8000000000000000#64 := by
  have hs : signWeight Config.floatFormat = 2 ^ 63 := by decide +kernel
  have hi : infMag Config.floatFormat = 0x7FF0000000000000 := by decide +kernel
  have hv := v.isLt
  simp only [FiniteNonneg, isFinite, floatNeg, floatMag, hs, hi, decide_eq_true_eq, beq_eq_false_iff_ne,
    ← BitVec.toNat_inj, BitVec.toNat_ofNat]
  omega

end Sys2Proof.Machine
end

