-- ==== Sys2Proof/Laws/Ops.lean ====
section
/-! SUPPORT. One lemma per shared operation: the whole state it leads to. Later proofs cite these and unfold no
operation again. -/

namespace Sys2Proof.Machine

theorem select_eq (op : ReadOp) (s : State) :
    select op s =
      { s with op := op, cs := .active, phase := .selected, trace := s.trace ++ [.csWrite .active] } := rfl

theorem request_eq (s : State) :
    request s = { s with phase := .wait, trace := s.trace ++ [.xferReq 2] } := rfl

theorem answer_ok_eq (b0 b1 : Byte) (s : State) :
    answer (.ok b0 b1) s =
      { s with buf0 := b0, buf1 := b1, ans := .ok, phase := .answered,
               trace := s.trace ++ [.xferResp (.ok b0 b1)] } := rfl

theorem answer_err_eq (e : TransportError) (s : State) :
    answer (.err e) s =
      { s with buf0 := Config.freeByte s.draws, buf1 := Config.freeByte (s.draws + 1), draws := s.draws + 2,
               ans := .err e, phase := .answered, trace := s.trace ++ [.xferResp (.err e)] } := rfl

/-- Taking the exception writes the select line and PHASE and ends the operation, and nothing else. -/
theorem takeTransportError_eq (e : TransportError) (s : State) :
    takeTransportError e s =
      { s with cs := .inactive, phase := .idle, trace := s.trace ++ [.csWrite .inactive],
               outcomes := s.outcomes ++ [.err e] } := rfl

/-- The outcome a release returns (41_read_raw R99). -/
def releaseOutcome (s : State) : OpOutcome :=
  match s.ans with
  | .ok => .ok (readResult s.op s.vref s.buf0 s.buf1)
  | .err e => .err e

/-- On either path the release writes the select line and PHASE and ends the operation, and nothing else. -/
theorem release_eq (s : State) :
    release s =
      { s with cs := .inactive, phase := .idle, trace := s.trace ++ [.csWrite .inactive],
               outcomes := s.outcomes ++ [releaseOutcome s] } := by
  obtain ⟨cs, vref, buf0, buf1, phase, op, ans, commands, transport, resetLine, trace, outcomes, draws⟩ := s
  cases ans <;> rfl

theorem awaitAnswer_silent {s : State} (h : s.transport = []) : awaitAnswer s = s := by
  simp [awaitAnswer, h]

theorem awaitAnswer_answered {s : State} {r : XferAnswer} {rest : List XferAnswer} (h : s.transport = r :: rest) :
    awaitAnswer s = release (answer r { s with transport := rest }) := by
  simp [awaitAnswer, h]

theorem takeAnswer_silent {s : State} (h : s.transport = []) : takeAnswer s = s := by
  simp [takeAnswer, h]

theorem takeAnswer_answered {s : State} {r : XferAnswer} {rest : List XferAnswer} (h : s.transport = r :: rest) :
    takeAnswer s = answer r { s with transport := rest } := by
  simp [takeAnswer, h]

/-- A transaction the transport does not answer waits in WAIT with the select line at 0. -/
theorem transaction_silent (op : ReadOp) {s : State} (h : s.transport = []) :
    transaction op s =
      { s with op := op, cs := .active, phase := .wait,
               trace := s.trace ++ [.csWrite .active, .xferReq 2] } := by
  rw [transaction, awaitAnswer_silent (by exact h), request_eq, select_eq]
  simp

/-- A transaction answered with a frame. -/
theorem transaction_ok (op : ReadOp) {s : State} {b0 b1 : Byte} {rest : List XferAnswer}
    (h : s.transport = .ok b0 b1 :: rest) :
    transaction op s =
      { s with op := op, cs := .inactive, phase := .idle, buf0 := b0, buf1 := b1, ans := .ok, transport := rest,
               trace := s.trace ++ [.csWrite .active, .xferReq 2, .xferResp (.ok b0 b1), .csWrite .inactive],
               outcomes := s.outcomes ++ [.ok (readResult op s.vref b0 b1)] } := by
  rw [transaction, awaitAnswer_answered (by exact h), answer_ok_eq, release_eq, request_eq, select_eq]
  simp [releaseOutcome]

/-- A transaction answered with an error: BUF holds free values. -/
theorem transaction_err (op : ReadOp) {s : State} {e : TransportError} {rest : List XferAnswer}
    (h : s.transport = .err e :: rest) :
    transaction op s =
      { s with op := op, cs := .inactive, phase := .idle, buf0 := Config.freeByte s.draws,
               buf1 := Config.freeByte (s.draws + 1), draws := s.draws + 2, ans := .err e, transport := rest,
               trace := s.trace ++ [.csWrite .active, .xferReq 2, .xferResp (.err e), .csWrite .inactive],
               outcomes := s.outcomes ++ [.err e] } := by
  rw [transaction, awaitAnswer_answered (by exact h), answer_err_eq, release_eq, request_eq, select_eq]
  simp [releaseOutcome]

theorem constructed_eq (v : Option FloatBits) (s : State) :
    constructed v s =
      { s with vref := vrefToStore v, cs := .inactive, phase := .idle, trace := s.trace ++ [.csWrite .inactive],
               outcomes := s.outcomes ++ [.ok .unit] } := rfl

theorem hardwareReset_eq (s : State) :
    hardwareReset s =
      { s with cs := Config.freeLevel s.draws, vref := Config.freeFloat s.draws, buf0 := Config.freeByte s.draws,
               buf1 := Config.freeByte (s.draws + 1), draws := s.draws + 2, phase := .unbuilt, resetLine := false,
               trace := [], outcomes := [] } := rfl

/-- Everything a read operation can do: refuse outside IDLE, wait, return a value, or take the exception. -/
theorem readOperation_next {op : ReadOp} {s t : State} (h : readOperation op s = .next t) :
    s.phase = .idle ∧ t = transaction op s := by
  unfold readOperation at h
  split at h <;> simp_all

theorem beginRead_next {op : ReadOp} {s t : State} (h : beginRead op s = .next t) :
    s.phase = .idle ∧ t = select op s := by
  unfold beginRead at h
  split at h <;> simp_all

/-- Everything an executed instruction can do. -/
theorem exec_next {i : Instr} {s t : State} (h : exec i s = .next t) :
    (∃ v, i = .construct v ∧ s.phase = .unbuilt ∧ t = constructed v s) ∨
    (i = .referenceVoltage ∧ s.phase = .idle ∧ t = endWith (.ok (.reference s.vref)) s) ∨
    (∃ op, i = readInstr op ∧ s.phase = .idle ∧ t = transaction op s) := by
  cases i with
  | construct v =>
    refine .inl ⟨v, rfl, ?_⟩
    simp only [exec, execConstruct] at h
    split at h <;> simp_all
  | referenceVoltage =>
    refine .inr (.inl ⟨rfl, ?_⟩)
    simp only [exec, execReferenceVoltage] at h
    split at h <;> simp_all
  | readRaw => exact .inr (.inr ⟨.readRaw, rfl, readOperation_next h⟩)
  | readVoltage => exact .inr (.inr ⟨.readVoltage, rfl, readOperation_next h⟩)
  | readScaledU16 => exact .inr (.inr ⟨.readScaledU16, rfl, readOperation_next h⟩)

/-- Everything an issued instruction can do at the event level. -/
theorem issue_next {i : Instr} {s t : State} (h : issue i s = .next t) :
    (∃ v, i = .construct v ∧ s.phase = .unbuilt ∧ t = constructed v s) ∨
    (i = .referenceVoltage ∧ s.phase = .idle ∧ t = endWith (.ok (.reference s.vref)) s) ∨
    (∃ op, i = readInstr op ∧ s.phase = .idle ∧ t = select op s) := by
  cases i with
  | construct v =>
    refine .inl ⟨v, rfl, ?_⟩
    simp only [issue, execConstruct] at h
    split at h <;> simp_all
  | referenceVoltage =>
    refine .inr (.inl ⟨rfl, ?_⟩)
    simp only [issue, execReferenceVoltage] at h
    split at h <;> simp_all
  | readRaw => exact .inr (.inr ⟨.readRaw, rfl, beginRead_next h⟩)
  | readVoltage => exact .inr (.inr ⟨.readVoltage, rfl, beginRead_next h⟩)
  | readScaledU16 => exact .inr (.inr ⟨.readScaledU16, rfl, beginRead_next h⟩)

/-- What the transport can have to say. -/
theorem transport_cases (s : State) :
    s.transport = [] ∨ (∃ b0 b1 rest, s.transport = .ok b0 b1 :: rest) ∨ (∃ e rest, s.transport = .err e :: rest) := by
  rcases s.transport with _ | ⟨⟨b0, b1⟩ | e, rest⟩
  · exact .inl rfl
  · exact .inr (.inl ⟨b0, b1, rest, rfl⟩)
  · exact .inr (.inr ⟨e, rest, rfl⟩)

/-- In UNBUILT, CONSTRUCT completes. -/
theorem exec_construct {s : State} (v : Option FloatBits) (h : s.phase = .unbuilt) :
    exec (.construct v) s = .next (constructed v s) := by
  simp [exec, execConstruct, h]

/-- In IDLE, REFERENCE_VOLTAGE completes. -/
theorem exec_referenceVoltage {s : State} (h : s.phase = .idle) :
    exec .referenceVoltage s = .next (endWith (.ok (.reference s.vref)) s) := by
  simp [exec, execReferenceVoltage, h]

/-- In IDLE a read operation is a transaction. -/
theorem exec_read {s : State} (op : ReadOp) (h : s.phase = .idle) :
    exec (readInstr op) s = .next (transaction op s) := by
  cases op <;> simp [readInstr, exec, execReadRaw, execReadVoltage, execReadScaledU16, readOperation, h]

/-- In IDLE a read operation begins, at the event level, with step `select`. -/
theorem issue_read {s : State} (op : ReadOp) (h : s.phase = .idle) :
    issue (readInstr op) s = .next (select op s) := by
  cases op <;> simp [readInstr, issue, beginRead, h]

end Sys2Proof.Machine
end

