-- ==== Sys2Proof/Laws/PerInstr.lean ====
section
/-! SUPPORT. Statements made per instruction. EncodeCode: the low three bits of an instruction's word are its
command code (30_encoding R65, R66). -/

namespace Sys2Proof.Laws.EncodeCode

/-- The word of `i` carries the code of `i` in `cmd[2:0]`. -/
def Statement (i : Instr) : Prop := CommandWord.cmd (encode i) = i.code

theorem construct (v : Option FloatBits) : Statement (.construct v) := by
  cases v <;> exact cmd_packCommand _ _ _

theorem referenceVoltage : Statement .referenceVoltage := cmd_packCommand _ _ _

theorem readRaw : Statement .readRaw := cmd_packCommand _ _ _

theorem readVoltage : Statement .readVoltage := cmd_packCommand _ _ _

theorem readScaledU16 : Statement .readScaledU16 := cmd_packCommand _ _ _

end Sys2Proof.Laws.EncodeCode
end

