-- ==== Sys2Proof/Laws/Step.lean ====
section
/-! SUPPORT. What a step, of the machine and of the event-level machine, can do; and runs of either. -/

namespace Sys2Proof.Machine

theorem Phase.active_cases {p : Phase} (h : p.active = true) : p = .selected ∨ p = .wait ∨ p = .answered := by
  cases p <;> simp_all [Phase.active]

theorem Phase.inactive_cases {p : Phase} (h : p.active = false) : p = .unbuilt ∨ p = .idle := by
  cases p <;> simp_all [Phase.active]

theorem issueNext_none {run : Instr → State → Host.Outcome State Fault Refusal} {s : State} (h : s.commands = []) :
    issueNext run s = .next s := by
  simp [issueNext, h]

theorem issueNext_some {run : Instr → State → Host.Outcome State Fault Refusal} {s : State} {w : CommandWord}
    {rest : List CommandWord} {i : Instr} (h : s.commands = w :: rest) (hd : decode w = some i) :
    issueNext run s = run i { s with commands := rest } := by
  simp [issueNext, h, hd]

theorem issueNext_reserved {run : Instr → State → Host.Outcome State Fault Refusal} {s : State} {w : CommandWord}
    {rest : List CommandWord} (h : s.commands = w :: rest) (hd : decode w = none) :
    issueNext run s = .refused (.reservedCommand (CommandWord.cmd w)) := by
  simp [issueNext, h, hd]

theorem issueNext_next {run : Instr → State → Host.Outcome State Fault Refusal} {s t : State}
    (h : issueNext run s = .next t) :
    (s.commands = [] ∧ t = s) ∨
    (∃ w rest i, s.commands = w :: rest ∧ decode w = some i ∧ run i { s with commands := rest } = .next t) := by
  unfold issueNext at h
  split at h
  next hc => exact .inl ⟨hc, by simpa using h.symm⟩
  next w rest hc =>
    split at h
    · cases h
    next i hd => exact .inr ⟨w, rest, i, hc, hd, h⟩

theorem step_reset {s : State} (h : s.resetLine = true) : step s = .next (hardwareReset s) := by
  simp [step, h]

theorem step_accepting {s : State} (h : s.resetLine = false) (ha : s.phase.active = false) :
    step s = issueNext exec s := by
  simp [step, h, accepts, ha]

theorem step_active {s : State} (h : s.resetLine = false) (ha : s.phase.active = true) :
    step s = .next (continueOperation s) := by
  simp [step, h, accepts, ha]

theorem microStep_reset {s : State} (h : s.resetLine = true) : microStep s = .next (hardwareReset s) := by
  simp [microStep, h]

theorem microStep_accepting {s : State} (h : s.resetLine = false) (ha : s.phase.active = false) :
    microStep s = issueNext issue s := by
  cases hp : s.phase <;> simp_all [microStep, Phase.active]

theorem microStep_selected {s : State} (h : s.resetLine = false) (hp : s.phase = .selected) :
    microStep s = .next (request s) := by
  simp [microStep, h, hp]

theorem microStep_wait {s : State} (h : s.resetLine = false) (hp : s.phase = .wait) :
    microStep s = .next (takeAnswer s) := by
  simp [microStep, h, hp]

theorem microStep_answered {s : State} (h : s.resetLine = false) (hp : s.phase = .answered) :
    microStep s = .next (release s) := by
  simp [microStep, h, hp]

/-- Everything a step of the machine can do. -/
theorem step_next {s t : State} (h : step s = .next t) :
    (s.resetLine = true ∧ t = hardwareReset s) ∨
    (s.resetLine = false ∧ s.phase.active = false ∧ s.commands = [] ∧ t = s) ∨
    (∃ w rest i, s.resetLine = false ∧ s.phase.active = false ∧ s.commands = w :: rest ∧ decode w = some i ∧
      exec i { s with commands := rest } = .next t) ∨
    (s.resetLine = false ∧ s.phase.active = true ∧ t = continueOperation s) := by
  rcases Bool.eq_false_or_eq_true s.resetLine with hr | hr
  · exact .inl ⟨hr, by simpa [step_reset hr] using h.symm⟩
  rcases Bool.eq_false_or_eq_true s.phase.active with ha | ha
  · exact .inr (.inr (.inr ⟨hr, ha, by simpa [step_active hr ha] using h.symm⟩))
  rw [step_accepting hr ha] at h
  rcases issueNext_next h with ⟨hc, ht⟩ | ⟨w, rest, i, hc, hd, hx⟩
  · exact .inr (.inl ⟨hr, ha, hc, ht⟩)
  · exact .inr (.inr (.inl ⟨w, rest, i, hr, ha, hc, hd, hx⟩))

/-- Everything a step of the event-level machine can do. -/
theorem microStep_next {s t : State} (h : microStep s = .next t) :
    (s.resetLine = true ∧ t = hardwareReset s) ∨
    (s.resetLine = false ∧ s.phase.active = false ∧ s.commands = [] ∧ t = s) ∨
    (∃ w rest i, s.resetLine = false ∧ s.phase.active = false ∧ s.commands = w :: rest ∧ decode w = some i ∧
      issue i { s with commands := rest } = .next t) ∨
    (s.resetLine = false ∧ s.phase = .selected ∧ t = request s) ∨
    (s.resetLine = false ∧ s.phase = .wait ∧ t = takeAnswer s) ∨
    (s.resetLine = false ∧ s.phase = .answered ∧ t = release s) := by
  rcases Bool.eq_false_or_eq_true s.resetLine with hr | hr
  · exact .inl ⟨hr, by simpa [microStep_reset hr] using h.symm⟩
  refine .inr ?_
  rcases Bool.eq_false_or_eq_true s.phase.active with ha | ha
  · refine .inr (.inr ?_)
    rcases Phase.active_cases ha with hp | hp | hp
    · exact .inl ⟨hr, hp, by simpa [microStep_selected hr hp] using h.symm⟩
    · exact .inr (.inl ⟨hr, hp, by simpa [microStep_wait hr hp] using h.symm⟩)
    · exact .inr (.inr ⟨hr, hp, by simpa [microStep_answered hr hp] using h.symm⟩)
  · rw [microStep_accepting hr ha] at h
    rcases issueNext_next h with ⟨hc, ht⟩ | ⟨w, rest, i, hc, hd, hx⟩
    · exact .inl ⟨hr, ha, hc, ht⟩
    · exact .inr (.inl ⟨w, rest, i, hr, ha, hc, hd, hx⟩)

theorem run_zero (M : Host.Core) (s : M.State) : M.run 0 s = .next s := rfl

theorem run_succ {M : Host.Core} {k : Nat} {s s' : M.State} (h : M.step s = .next s') :
    M.run (k + 1) s = M.run k s' := by
  simp [Host.Core.run, h]

theorem run_succ_next {M : Host.Core} {k : Nat} {s t : M.State} (h : M.run (k + 1) s = .next t) :
    ∃ s', M.step s = .next s' ∧ M.run k s' = .next t := by
  simp only [Host.Core.run] at h
  split at h
  next s' hs => exact ⟨s', hs, h⟩
  · cases h
  · cases h

/-- A run of j + k steps is a run of j steps followed by one of k. -/
theorem run_add {M : Host.Core} {j k : Nat} {s t u : M.State} (hj : M.run j s = .next t) (hk : M.run k t = .next u) :
    M.run (j + k) s = .next u := by
  induction j generalizing s with
  | zero => cases hj; simpa using hk
  | succ j ih =>
    obtain ⟨s', hs, hr⟩ := run_succ_next hj
    rw [Nat.succ_add, run_succ hs]
    exact ih hr

theorem core_run_succ {k : Nat} {s s' : State} (h : step s = .next s') : core.run (k + 1) s = core.run k s' :=
  run_succ (M := core) h

theorem microCore_run_succ {k : Nat} {s s' : State} (h : microStep s = .next s') :
    microCore.run (k + 1) s = microCore.run k s' :=
  run_succ (M := microCore) h

theorem core_run_succ_next {k : Nat} {s t : State} (h : core.run (k + 1) s = .next t) :
    ∃ s' : State, step s = .next s' ∧ core.run k s' = .next t :=
  run_succ_next (M := core) h

theorem microCore_run_succ_next {k : Nat} {s t : State} (h : microCore.run (k + 1) s = .next t) :
    ∃ s' : State, microStep s = .next s' ∧ microCore.run k s' = .next t :=
  run_succ_next (M := microCore) h

/-- What every step keeps, every run keeps. -/
theorem run_keeps {M : Host.Core} {P : M.State → Prop} (hstep : ∀ s t, P s → M.step s = .next t → P t)
    {k : Nat} {s t : M.State} (hs : P s) (h : M.run k s = .next t) : P t := by
  induction k generalizing s with
  | zero => cases h; exact hs
  | succ k ih =>
    obtain ⟨s', h1, h2⟩ := run_succ_next h
    exact ih (hstep s s' hs h1) h2

/-- A state that steps to itself is where every run from it ends. -/
theorem run_fixed {M : Host.Core} {s : M.State} (h : M.step s = .next s) (k : Nat) : M.run k s = .next s := by
  induction k with
  | zero => rfl
  | succ k ih => rw [run_succ h, ih]

end Sys2Proof.Machine
end

