-- ==== Sys2Proof/Laws/Trace.lean ====
section
/-! SUPPORT. The trace and outcome functions of Safety.lean over an appended list. -/

namespace Sys2Proof.Machine

theorem scanTrace_append (w : Window) (a b : List Event) :
    scanTrace w (a ++ b) = (scanTrace w a).bind fun w' => scanTrace w' b := by
  induction a generalizing w with
  | nil => rfl
  | cons e a ih =>
    simp only [List.cons_append, scanTrace]
    cases w.next e with
    | none => rfl
    | some w' => exact ih w'

@[simp] theorem lastDriven_append (v : Level) (a b : List Event) :
    lastDriven v (a ++ b) = lastDriven (lastDriven v a) b := by
  induction a generalizing v with
  | nil => rfl
  | cons e a ih => cases e <;> exact ih _

@[simp] theorem answersIn_append (a b : List Event) : answersIn (a ++ b) = answersIn a ++ answersIn b := by
  induction a with
  | nil => rfl
  | cons e a ih => cases e <;> simp [answersIn, ih]

@[simp] theorem readOutcomes_append (a b : List OpOutcome) :
    readOutcomes (a ++ b) = readOutcomes a ++ readOutcomes b := by
  induction a with
  | nil => rfl
  | cons o a ih =>
    cases o with
    | err e => simp [readOutcomes, ih]
    | ok v => cases v <;> simp [readOutcomes, ih]

end Sys2Proof.Machine
end

