-- ==== Sys2Proof/Tests/Slice0.lean ====
section
/-! SUPPORT. The model's own tests. Expected values are those of 95_test_vectors (named in each theorem) and of the
encodings of 30_encoding. The theorems `witness_…` show, for each statement of Certificates/Slice0/Obligations.lean that
has hypotheses, states and operands that meet them, clause by clause. -/

namespace Sys2Proof.Machine.Tests

/-! ## Helpers -/

/-- What a next state shows: PHASE, CS, VREF, the trace and the outcomes. -/
def shown (o : Host.Outcome State Fault Refusal) : Option (Phase × Level × FloatBits × List Event × List OpOutcome) :=
  match o with
  | .next s => some (s.phase, s.cs, s.vref, s.trace, s.outcomes)
  | .fault _ => none
  | .refused _ => none

/-- BUF of a next state. -/
def bufOf (o : Host.Outcome State Fault Refusal) : Option (Byte × Byte) :=
  match o with
  | .next s => some (s.buf0, s.buf1)
  | .fault _ => none
  | .refused _ => none

/-- The reason of a refusal. -/
def refusalOf (o : Host.Outcome State Fault Refusal) : Option Refusal :=
  match o with
  | .next _ => none
  | .fault _ => none
  | .refused r => some r

/-- The binary64 values 3.3, 5.0, 2.5 and 1.0 (95_test_vectors). -/
def v33 : FloatBits := 0x400A666666666666#64
def v50 : FloatBits := 0x4014000000000000#64
def v25 : FloatBits := 0x4004000000000000#64
def v10 : FloatBits := 0x3FF0000000000000#64

/-- The start of the vectors of 95_test_vectors section 2.4: IDLE, CS = 1, a stored VREF, answers to come. -/
def idle (v : FloatBits) (answers : List XferAnswer) : State :=
  { State.reset with phase := .idle, cs := .inactive, vref := v, transport := answers }

/-- UNBUILT with the line at a level. -/
def unbuilt (level : Level) : State := { State.reset with cs := level }

/-- A state in which an operation is in hand. -/
def busy (p : Phase) (op : ReadOp) (ans : Answer) (b0 b1 : Byte) (answers : List XferAnswer) : State :=
  { idle v33 answers with phase := p, cs := .active, op := op, ans := ans, buf0 := b0, buf1 := b1 }

/-- A state whose next commands are these. -/
def withCommands (ws : List CommandWord) (s : State) : State := { s with commands := ws }

/-- An error of the transport. -/
def e1 : TransportError := ⟨1⟩

/-! ## What the checks of WellFormed refuse -/

theorem test_code_101_refused : CommandWord.codeDefined 0b101#68 = false := by decide
theorem test_code_110_refused : CommandWord.codeDefined 0b110#68 = false := by decide
theorem test_code_111_refused : CommandWord.codeDefined 0b111#68 = false := by decide
theorem test_code_100_allowed : CommandWord.codeDefined 0b100#68 = true := by decide
theorem test_operand_bits_of_format_C_refused :
    CommandWord.operandsCanonical 0b1_010#68 = false ∧ CommandWord.operandsCanonical 0b10_010#68 = false ∧
    CommandWord.operandsCanonical 0b010#68 = true := by decide
theorem test_vref_without_vref_present_refused :
    CommandWord.operandsCanonical 0b10_000#68 = false ∧ CommandWord.operandsCanonical 0b11_000#68 = true := by decide

/-! ## Decoding of words written from 30_encoding R65 and R66 -/

theorem test_decode_construct : decode 0b000#68 = some (.construct none) := by decide
/-- Prog-1 step 1: cmd 000, vp 1, vref 0x4014000000000000. -/
theorem test_decode_construct_vref :
    decode 0b0100000000010100000000000000000000000000000000000000000000000000_1_000#68 =
      some (.construct (some v50)) := by decide
/-- `vref` is ignored if `vref_present` = 0 (R67). -/
theorem test_decode_construct_ignores_vref :
    decode 0b0100000000010100000000000000000000000000000000000000000000000000_0_000#68 = some (.construct none) := by
  decide
theorem test_decode_reference_voltage : decode 0b001#68 = some .referenceVoltage := by decide
theorem test_decode_read_raw : decode 0b010#68 = some .readRaw := by decide
theorem test_decode_read_voltage : decode 0b011#68 = some .readVoltage := by decide
theorem test_decode_read_scaled_u16 : decode 0b100#68 = some .readScaledU16 := by decide
theorem test_decode_reserved : decode 0b101#68 = none ∧ decode 0b110#68 = none ∧ decode 0b111#68 = none := by decide

/-! ## The pure functions: 95_test_vectors parts 1 and 2 -/

/-- E-1, E-2, E-3 and V-1 to V-10. -/
theorem test_extract :
    ([(0xFF, 0xFF), (0x00, 0x00), (0x01, 0x23), (0xFC, 0x00), (0xFD, 0x23), (0x03, 0xFF), (0x80, 0x01), (0x02, 0xFF),
      (0xAA, 0x55), (0x55, 0xAA), (0x07, 0x10), (0x04, 0x00), (0xFE, 0x00)] : List (Byte × Byte)).map
        (fun f => (extract f.1 f.2).toNat) =
      [1023, 0, 291, 0, 291, 1023, 1, 767, 597, 426, 784, 0, 512] := by decide

/-- E-7, E-8, E-9 and V-26 to V-39. -/
theorem test_scale_u16 :
    ([1023, 0, 256, 1, 15, 16, 17, 255, 291, 341, 511, 512, 513, 682, 767, 768, 1022] : List Nat).map
        (fun n => (scaleU16 (BitVec.ofNat 10 n)).toNat) =
      [65535, 0, 16400, 64, 960, 1025, 1089, 16335, 18642, 21845, 32735, 32800, 32864, 43690, 49135, 49200, 65471] := by
  decide

/-- V-11 to V-16 (E-4 to E-6 among them) and V-25, VREF = 3.3. -/
theorem test_voltage_33 :
    ([0, 1, 512, 1023, 291, 3, 767] : List Nat).map (fun n => voltage (BitVec.ofNat 10 n) v33) =
      [0x0000000000000000#64, 0x3F6A6D01A6D01A6D#64, 0x3FFA6D01A6D01A6D#64, 0x400A666666666666#64,
       0x3FEE09E8E09E8E0A#64, 0x3F83D1C13D1C13D1#64, 0x4003CB25FCB25FCB#64] := by decide +kernel

/-- V-17, V-18 and V-24, VREF = 5.0; V-22, VREF = 0.0; V-23, VREF = 1.0. -/
theorem test_voltage_others :
    [voltage 512#10 v50, voltage 1022#10 v50, voltage 1023#10 v50, voltage 1023#10 0#64, voltage 511#10 v10] =
      [0x4004050140501405#64, 0x4013FAFEBFAFEBFB#64, 0x4014000000000000#64, 0#64, 0x3FDFF7FDFF7FDFF8#64] := by
  decide +kernel

/-- The voltage formula in binary32, for V-19 to V-21. -/
def voltage32 (raw vref : Nat) : Option Nat := do
  let product ← mulBits Config.binary32 (ratioBits Config.binary32 raw 1) vref
  divBits Config.binary32 product (ratioBits Config.binary32 1023 1)

/-- V-19, V-20 and V-21, FLOAT = binary32: 0x40533333 is 3.3 and 0x40A00000 is 5.0. -/
theorem test_voltage_binary32 :
    [voltage32 1023 0x40533333, voltage32 512 0x40533333, voltage32 512 0x40A00000] =
      [some 0x40533333, some 0x3FD3680D, some 0x4020280A] := by decide +kernel

/-! ## The operations: 95_test_vectors section 2.4 -/

/-- V-45. -/
theorem test_construct_default :
    shown (exec (.construct none) (unbuilt .active)) =
      some (.idle, .inactive, v33, [.csWrite .inactive], [.ok .unit]) := by decide

/-- V-46. -/
theorem test_construct_vref :
    shown (exec (.construct (some v25)) (unbuilt .inactive)) =
      some (.idle, .inactive, v25, [.csWrite .inactive], [.ok .unit]) := by decide

/-- V-47. -/
theorem test_reference_voltage :
    shown (exec .referenceVoltage (idle v25 [])) = some (.idle, .inactive, v25, [], [.ok (.reference v25)]) := by decide

/-- V-40. -/
theorem test_read_raw_ok :
    shown (exec .readRaw (idle v33 [.ok 0x01#8 0x23#8])) =
      some (.idle, .inactive, v33,
        [.csWrite .active, .xferReq 2, .xferResp (.ok 0x01#8 0x23#8), .csWrite .inactive], [.ok (.raw 291#10)]) ∧
    bufOf (exec .readRaw (idle v33 [.ok 0x01#8 0x23#8])) = some (0x01#8, 0x23#8) := ⟨by decide, by decide⟩

/-- V-41 and V-44. -/
theorem test_read_raw_err_silent :
    shown (exec .readRaw (idle v33 [.err e1])) =
      some (.idle, .inactive, v33,
        [.csWrite .active, .xferReq 2, .xferResp (.err e1), .csWrite .inactive], [.err e1]) ∧
    shown (exec .readRaw (idle v33 [])) = some (.wait, .active, v33, [.csWrite .active, .xferReq 2], []) :=
  ⟨by decide, by decide⟩

/-- V-52. -/
theorem test_read_voltage_ok :
    shown (exec .readVoltage (idle v50 [.ok 0xFF#8 0xFF#8])) =
      some (.idle, .inactive, v50,
        [.csWrite .active, .xferReq 2, .xferResp (.ok 0xFF#8 0xFF#8), .csWrite .inactive], [.ok (.volts v50)]) := by
  decide +kernel

/-- V-42. -/
theorem test_read_voltage_err :
    shown (exec .readVoltage (idle v33 [.err e1])) =
      some (.idle, .inactive, v33,
        [.csWrite .active, .xferReq 2, .xferResp (.err e1), .csWrite .inactive], [.err e1]) := by decide

/-- V-53. -/
theorem test_read_scaled_u16_ok :
    shown (exec .readScaledU16 (idle v33 [.ok 0xFF#8 0xFF#8])) =
      some (.idle, .inactive, v33,
        [.csWrite .active, .xferReq 2, .xferResp (.ok 0xFF#8 0xFF#8), .csWrite .inactive],
        [.ok (.scaled 65535#16)]) := by decide

/-- V-43. -/
theorem test_read_scaled_u16_err :
    shown (exec .readScaledU16 (idle v33 [.err e1])) =
      some (.idle, .inactive, v33,
        [.csWrite .active, .xferReq 2, .xferResp (.err e1), .csWrite .inactive], [.err e1]) := by decide

/-- V-48, V-49, V-50. -/
theorem test_refusals :
    refusalOf (exec .readRaw (unbuilt .active)) = some .notConstructed ∧
    refusalOf (exec (.construct none) (idle v33 [])) = some .alreadyConstructed ∧
    refusalOf (exec .referenceVoltage (busy .wait .readRaw .ok 0 0 [])) = some .operationInHand := by decide

/-- V-51. -/
theorem test_reserved_command_refused :
    refusalOf (step (withCommands [0b101#68] (idle v33 []))) = some (.reservedCommand 0b101#3) := by decide

/-- The small-step view of V-40: its last step, `release`. -/
theorem test_release :
    shown (microStep (busy .answered .readRaw .ok 0x01#8 0x23#8 [])) =
      some (.idle, .inactive, v33, [.csWrite .inactive], [.ok (.raw 291#10)]) := by decide

/-- The answer comes while the operation waits: the operation ends. -/
theorem test_late_answer :
    shown (step (busy .wait .readScaledU16 .ok 0 0 [.ok 0x02#8 0x00#8])) =
      some (.idle, .inactive, v33, [.xferResp (.ok 0x02#8 0x00#8), .csWrite .inactive],
        [.ok (.scaled 0x8020#16)]) := by decide

/-- The host's first command after reset is the one that `withFetchWord` places (Prog-1 step 1). -/
theorem test_fetch_construct :
    shown (step (State.reset.withFetchWord 68 0x40140000000000008)) =
      some (.idle, .inactive, v50, [.csWrite .inactive], [.ok .unit]) := by decide

/-- Prog-5 step 1: REFERENCE_VOLTAGE as the first command after reset is refused. -/
theorem test_fetch_read_before_construct :
    refusalOf (step (State.reset.withFetchWord 8 0b001)) = some .notConstructed := by decide

/-! ## Witnesses -/

theorem witness_ExtractIsMaskShiftOr :
    (busy .answered .readRaw .ok 0xFF#8 0xFF#8 []).phase = .answered ∧
    (busy .answered .readRaw .ok 0xFF#8 0xFF#8 []).ans = .ok ∧
    (busy .answered .readRaw .ok 0xFF#8 0xFF#8 []).op = .readRaw ∧
    (busy .answered .readVoltage .ok 0#8 0#8 []).phase = .answered ∧
    (busy .answered .readVoltage .ok 0#8 0#8 []).ans = .ok ∧
    (busy .answered .readVoltage .ok 0#8 0#8 []).op = .readVoltage ∧
    (busy .answered .readScaledU16 .ok 3#8 255#8 []).phase = .answered ∧
    (busy .answered .readScaledU16 .ok 3#8 255#8 []).ans = .ok ∧
    (busy .answered .readScaledU16 .ok 3#8 255#8 []).op = .readScaledU16 := by decide

theorem witness_ScaleProperties :
    (1022#10 : Sample).toNat < 1023 ∧ (scaleU16 (1022#10 + 1#10)).toNat = (scaleU16 1022#10).toNat + 64 ∧
    (15#10 : Sample).toNat < 1023 ∧ (scaleU16 (15#10 + 1#10)).toNat = (scaleU16 15#10).toNat + 65 := by decide

theorem witness_DecodeOfEncode :
    (Instr.construct none).wf = true ∧ (Instr.construct (some 0xFFFFFFFFFFFFFFFF#64)).wf = true ∧
    Instr.referenceVoltage.wf = true ∧ Instr.readRaw.wf = true ∧ Instr.readVoltage.wf = true ∧
    Instr.readScaledU16.wf = true := by decide

theorem witness_EncodeOfDecode :
    decode 0b100#68 = some .readScaledU16 ∧ CommandWord.operandsCanonical 0b100#68 = true ∧
    decode 0x40140000000000008#68 = some (.construct (some v50)) ∧
    CommandWord.operandsCanonical 0x40140000000000008#68 = true := by decide

theorem witness_ReservedCodesRefused :
    (withCommands [0b101#68] (idle v33 [])).resetLine = false ∧
    (withCommands [0b101#68] (idle v33 [])).phase.active = false ∧
    CommandWord.cmd 0b101#68 = 0b101#3 ∧ CommandWord.cmd 0b1110#68 = 0b110#3 ∧
    CommandWord.cmd 0xFFFFFFFFFFFFFFFFF#68 = 0b111#3 := by decide

theorem witness_ConstructOperandDecode :
    CommandWord.cmd 0x40140000000000008#68 = 0b000#3 ∧ CommandWord.vrefPresent 0x40140000000000008#68 = 1#1 ∧
    CommandWord.cmd 0x40140000000000000#68 = 0b000#3 ∧ CommandWord.vrefPresent 0x40140000000000000#68 = 0#1 := by
  decide

theorem witness_StepRunsTheDecodedCommand :
    (withCommands [0b001#68] (idle v33 [])).resetLine = false ∧
    (withCommands [0b001#68] (idle v33 [])).phase.active = false ∧
    (withCommands [0b001#68] (idle v33 [])).commands = 0b001#68 :: [] ∧
    decode 0b001#68 = some .referenceVoltage := by decide

theorem witness_ConstructInitialises : (unbuilt .active).phase = .unbuilt ∧ (unbuilt .inactive).phase = .unbuilt := by
  decide

theorem witness_ReferenceVoltageReturnsVref : (idle v25 []).phase = .idle := by decide

theorem witness_VrefIsWrittenOnce :
    (unbuilt .active).phase = .unbuilt ∧
    (idle v33 []).phase ≠ .unbuilt ∧ (idle v33 []).resetLine = false ∧
    (shown (core.run 1 (withCommands [0b001#68] (idle v33 [])))).isSome = true ∧
    (shown (microCore.run 1 (withCommands [0b001#68] (idle v33 [])))).isSome = true ∧
    (shown (exec .referenceVoltage (idle v33 []))).isSome = true ∧
    (idle v33 [.ok 1#8 2#8]).transport = .ok 1#8 2#8 :: [] ∧
    (shown (exec .readRaw (idle v33 [.ok 1#8 2#8]))).isSome = true ∧
    (shown (exec .readScaledU16 (idle v33 [.ok 1#8 2#8]))).isSome = true := by decide

/-- For READ_RAW, READ_VOLTAGE and READ_SCALED_U16 alike: the four clauses of ReadRawTransaction,
ReadVoltageTransaction and ReadScaledU16Transaction. -/
theorem witness_ReadRawTransaction :
    (idle v33 [.ok 0xFF#8 0xFF#8]).phase = .idle ∧
    (idle v33 [.ok 0xFF#8 0xFF#8]).transport = .ok 0xFF#8 0xFF#8 :: [] ∧
    (idle v33 [.err e1]).phase = .idle ∧ (idle v33 [.err e1]).transport = .err e1 :: [] ∧
    (idle v33 []).phase = .idle ∧ (idle v33 []).transport = [] ∧
    (unbuilt .active).phase ≠ .idle := by decide

theorem witness_ReadVoltageTransaction :
    (idle v50 [.ok 0x02#8 0x00#8]).phase = .idle ∧
    (idle v50 [.ok 0x02#8 0x00#8]).transport = .ok 0x02#8 0x00#8 :: [] ∧
    (idle v50 [.err e1]).phase = .idle ∧ (idle v50 [.err e1]).transport = .err e1 :: [] ∧
    (idle v50 []).phase = .idle ∧ (idle v50 []).transport = [] ∧
    (busy .answered .readVoltage .ok 0 0 []).phase ≠ .idle := by decide

theorem witness_ReadScaledU16Transaction :
    (idle v50 [.ok 0x00#8 0x00#8]).phase = .idle ∧
    (idle v50 [.ok 0x00#8 0x00#8]).transport = .ok 0x00#8 0x00#8 :: [] ∧
    (idle v50 [.err e1]).phase = .idle ∧ (idle v50 [.err e1]).transport = .err e1 :: [] ∧
    (idle v50 []).phase = .idle ∧ (idle v50 []).transport = [] ∧
    (busy .selected .readScaledU16 .ok 0 0 []).phase ≠ .idle := by decide

theorem witness_SuccessfulReadHasFourEvents :
    CsMatchesPhase (idle v33 [.ok 1#8 2#8]) ∧ (idle v33 [.ok 1#8 2#8]).phase = .idle ∧
    (idle v33 [.ok 1#8 2#8]).transport = .ok 1#8 2#8 :: [] ∧
    (idle v33 []).phase = .idle ∧ (idle v33 []).transport = [] ∧
    (busy .wait .readRaw .ok 0 0 [.ok 1#8 2#8]).phase = .wait ∧
    (busy .wait .readRaw .ok 0 0 [.ok 1#8 2#8]).resetLine = false ∧
    (busy .wait .readRaw .ok 0 0 [.ok 1#8 2#8]).transport = .ok 1#8 2#8 :: [] := by decide

theorem witness_FailedReadRestoresTheSelectLine :
    (idle v33 [.err e1]).phase = .idle ∧ (idle v33 [.err e1]).transport = .err e1 :: [] ∧
    (busy .wait .readRaw .ok 0 0 [.err e1]).phase = .wait ∧
    (busy .wait .readRaw .ok 0 0 [.err e1]).resetLine = false ∧
    (busy .wait .readRaw .ok 0 0 [.err e1]).transport = .err e1 :: [] := by decide

theorem witness_ErrorExactlyWhenTransportFails :
    (shown (exec .readRaw (idle v33 [.err e1]))).map (fun x => x.2.2.2.2) = some [.err e1] ∧
    (shown (exec .readRaw (idle v33 [.ok 0#8 0#8]))).map (fun x => x.2.2.2.2) = some [.ok (.raw 0#10)] ∧
    (busy .wait .readRaw .ok 0 0 [.err e1]).phase = .wait ∧
    (busy .wait .readRaw .ok 0 0 [.err e1]).resetLine = false ∧
    (shown (step (busy .wait .readRaw .ok 0 0 [.err e1]))).map (fun x => x.2.2.2.2) = some [.err e1] := by decide

theorem witness_TakingTheExceptionSavesNothing :
    (busy .answered .readVoltage (.err e1) 0 0 []).phase = .answered ∧
    (busy .answered .readVoltage (.err e1) 0 0 []).resetLine = false ∧
    (busy .answered .readVoltage (.err e1) 0 0 []).ans = .err e1 := by decide

theorem witness_ReadsDependOnlyOnTheirFrame :
    (idle v33 [.ok 0x01#8 0x23#8]).phase = .idle ∧ (idle v33 [.ok 0xFD#8 0x23#8]).phase = .idle ∧
    (idle v33 [.ok 0x01#8 0x23#8]).transport = .ok 0x01#8 0x23#8 :: [] ∧
    (idle v33 [.ok 0xFD#8 0x23#8]).transport = .ok 0xFD#8 0x23#8 :: [] ∧
    (0x01#8 &&& 3#8 = 0xFD#8 &&& 3#8) ∧ (idle v33 [.ok 0x01#8 0x23#8]).vref = (idle v33 [.ok 0xFD#8 0x23#8]).vref := by
  decide

theorem witness_FailureLeavesNoMarkOnLaterOperations :
    CsMatchesPhase (idle v33 [.err e1, .ok 3#8 255#8]) ∧ (idle v33 [.err e1, .ok 3#8 255#8]).phase = .idle ∧
    (idle v33 [.err e1, .ok 3#8 255#8]).transport = .err e1 :: [.ok 3#8 255#8] ∧
    (shown (exec .readRaw (idle v33 [.ok 3#8 255#8]))).isSome = true := by decide

theorem witness_SilentTransportHangsForEver :
    (idle v33 []).phase = .idle ∧ (idle v33 []).transport = [] ∧
    (busy .wait .readRaw .ok 0 0 []).phase = .wait ∧ (busy .wait .readRaw .ok 0 0 []).transport = [] ∧
    (busy .wait .readRaw .ok 0 0 []).resetLine = false := by decide

theorem witness_QuietWithoutCommands :
    (unbuilt .active).phase.active = false ∧ (unbuilt .active).commands = [] ∧ (unbuilt .active).resetLine = false ∧
    (idle v33 []).phase.active = false ∧ (idle v33 []).commands = [] ∧ (idle v33 []).resetLine = false := by decide

theorem witness_HardwareResetReturnsToUnbuilt :
    (applyInput .reset (busy .wait .readRaw .ok 0 0 [])).resetLine = true := by decide

theorem witness_AcceptedExactlyInItsPhase :
    (busy .selected .readRaw .ok 0 0 []).phase.active = true ∧ (busy .answered .readRaw .ok 0 0 []).phase.active = true ∧
    (unbuilt .active).phase = .unbuilt ∧ (∀ v, Instr.readRaw ≠ .construct v) ∧ (idle v33 []).phase = .idle :=
  ⟨rfl, rfl, rfl, fun _ => by simp, rfl⟩

theorem witness_FourStepsOfATransaction :
    (idle v33 []).phase = .idle ∧
    (busy .selected .readRaw .ok 0 0 []).phase = .selected ∧ (busy .selected .readRaw .ok 0 0 []).resetLine = false ∧
    (busy .wait .readRaw .ok 0 0 [.ok 1#8 2#8]).phase = .wait ∧
    (busy .wait .readRaw .ok 0 0 [.ok 1#8 2#8]).transport = .ok 1#8 2#8 :: [] ∧
    (busy .wait .readRaw .ok 0 0 [.ok 1#8 2#8]).resetLine = false ∧
    (busy .wait .readRaw .ok 0 0 [.err e1]).transport = .err e1 :: [] ∧
    (busy .answered .readRaw .ok 1 2 []).phase = .answered ∧ (busy .answered .readRaw .ok 1 2 []).resetLine = false := by
  decide

/-- One step along each of the five arcs. -/
theorem witness_PhaseMovesOnlyAlongItsArcs :
    (shown (microStep (withCommands [0b000#68] (unbuilt .active)))).map (·.1) = some .idle ∧
    (shown (microStep (withCommands [0b010#68] (idle v33 [])))).map (·.1) = some .selected ∧
    (shown (microStep (busy .selected .readRaw .ok 0 0 []))).map (·.1) = some .wait ∧
    (shown (microStep (busy .wait .readRaw .ok 0 0 [.err e1]))).map (·.1) = some .answered ∧
    (shown (microStep (busy .answered .readRaw .ok 0 0 []))).map (·.1) = some .idle := by decide

theorem witness_FourEventsAreOneStep :
    (withCommands [0b100#68] (idle v33 [.ok 1#8 2#8])).resetLine = false ∧
    (withCommands [0b100#68] (idle v33 [.ok 1#8 2#8])).phase = .idle ∧
    (withCommands [0b100#68] (idle v33 [.ok 1#8 2#8])).commands = 0b100#68 :: [] ∧
    decode 0b100#68 = some (readInstr .readScaledU16) ∧
    (withCommands [0b100#68] (idle v33 [.ok 1#8 2#8])).transport ≠ [] ∧
    (withCommands [0b100#68] (idle v33 [])).transport = [] := by decide

theorem witness_EveryRunIsAnEventLevelRun :
    (shown (core.run 2 (withCommands [0b010#68, 0b001#68] (idle v33 [.ok 1#8 2#8])))).isSome = true := by decide

theorem witness_EventLevelRunsBetweenOperationsAreRuns :
    (idle v33 []).phase.active = false ∧
    (shown (microCore.run 4 (withCommands [0b010#68] (idle v33 [.ok 1#8 2#8])))).map (·.1) = some .idle := by decide

/-- The invariant holds in IDLE with nothing done yet (premise P1 of 70_reset_and_hazards R163). -/
theorem witness_inv (v : FloatBits) (answers : List XferAnswer) : (idle v answers).Inv :=
  ⟨by simp [idle, CsMatchesPhase, Phase.active], rfl, fun h => by simp [idle] at h, rfl, [], rfl, .nil⟩

theorem witness_StepKeepsInv :
    (idle v33 [.ok 1#8 2#8]).Inv ∧ (shown (step (idle v33 [.ok 1#8 2#8]))).isSome = true :=
  ⟨witness_inv _ _, by decide⟩

theorem witness_MicroStepKeepsInv :
    (idle v33 [.ok 1#8 2#8]).Inv ∧ (shown (microStep (idle v33 [.ok 1#8 2#8]))).isSome = true :=
  ⟨witness_inv _ _, by decide⟩

/-- A reachable state in which an operation waits: CONSTRUCT, then READ_RAW, no answer. -/
theorem witness_ReachableStatesHaveInv : ∃ s, Reachable s ∧ s.phase = .wait :=
  ⟨_, .step (.step (.input (.command 0b010#68) (.input (.command 0b000#68) .reset)) rfl) rfl, rfl⟩

theorem witness_SelectLineMatchesPhase :
    (unbuilt .active).phase = .unbuilt ∧ (unbuilt .inactive).phase = .unbuilt ∧
    CsMatchesPhase (withCommands [0b010#68] (idle v33 [])) ∧
    (shown (core.run 1 (withCommands [0b010#68] (idle v33 [])))).isSome = true ∧
    (shown (microCore.run 1 (withCommands [0b010#68] (idle v33 [])))).isSome = true ∧
    CsMatchesPhase (busy .wait .readRaw .ok 0 0 []) ∧ (busy .wait .readRaw .ok 0 0 []).phase = .wait ∧
    (busy .wait .readRaw .ok 0 0 []).transport = [] ∧ (busy .wait .readRaw .ok 0 0 []).resetLine = false := by decide

theorem witness_NoOperationEndsSelected :
    CsMatchesPhase (busy .wait .readRaw .ok 0 0 [.err e1]) ∧
    (shown (step (busy .wait .readRaw .ok 0 0 [.err e1]))).map (fun x => x.2.2.2.2.length) = some 1 ∧
    (busy .wait .readRaw .ok 0 0 [.err e1]).outcomes.length = 0 ∧
    (shown (microStep (busy .answered .readRaw (.err e1) 0 0 []))).map (fun x => x.2.2.2.2.length) = some 1 := by decide

theorem witness_TraceAndOutcomesOnlyGrow :
    (idle v33 []).resetLine = false ∧
    (shown (core.run 1 (withCommands [0b010#68] (idle v33 [.err e1])))).map (fun x => x.2.2.2.1.length) = some 4 ∧
    (shown (microCore.run 3 (withCommands [0b010#68] (idle v33 [.err e1])))).map (fun x => x.2.2.2.1.length) =
      some 3 := by decide

theorem witness_OnlyConstructLeavesUnbuilt :
    (shown (step (withCommands [0b000#68] (unbuilt .active)))).map (·.1) = some .idle ∧
    (shown (microStep (withCommands [0b000#68] (unbuilt .active)))).map (·.1) = some .idle ∧
    (idle v33 []).phase ≠ .unbuilt ∧ (idle v33 []).resetLine = false ∧
    (shown (core.run 2 (idle v33 []))).isSome = true := by decide

/-- The operations READ_RAW, REFERENCE_VOLTAGE and READ_SCALED_U16, and an answer for each read. -/
theorem witness_RunFinishesIfTransportAnswers :
    let s := withCommands [0b010#68, 0b001#68, 0b100#68] (idle v33 [.err e1, .ok 1#8 2#8])
    s.phase = .idle ∧ s.resetLine = false ∧ (∀ w ∈ s.commands, acceptedInIdle w = true) ∧
    readsIn s.commands ≤ s.transport.length :=
  ⟨rfl, rfl, List.all_eq_true.1 (by decide), by decide⟩

theorem witness_FloatOfSampleIsExact : 0 ≤ 1023 ∧ 1023 ≤ 1023 := by decide

/-- Finite operands with a finite product (1.0 and 3.3) and with an infinite one (the largest finite value, squared). -/
theorem witness_ProductIsCorrectlyRounded :
    isFinite v10 = true ∧ isFinite v33 = true ∧ isFinite (fmul v10 v33) = true ∧
    isFinite 0x7FEFFFFFFFFFFFFF#64 = true ∧
    floatMag Config.binary64 (fmul 0x7FEFFFFFFFFFFFFF#64 0x7FEFFFFFFFFFFFFF#64).toNat = infMag Config.binary64 := by
  decide +kernel

/-- A finite dividend and a finite divisor other than zero: a finite quotient, and an infinite one (the largest finite
value by the least positive one). -/
theorem witness_QuotientIsCorrectlyRounded :
    isFinite v33 = true ∧ isFinite v50 = true ∧ floatMag Config.binary64 v50.toNat ≠ 0 ∧
    isFinite (fdiv v33 v50) = true ∧ isFinite 1#64 = true ∧ floatMag Config.binary64 (1#64).toNat ≠ 0 ∧
    floatMag Config.binary64 (fdiv 0x7FEFFFFFFFFFFFFF#64 1#64).toNat = infMag Config.binary64 := by decide +kernel

theorem witness_VoltageIsMonotone :
    FiniteNonneg 0#64 ∧ FiniteNonneg 0x8000000000000000#64 ∧ FiniteNonneg v33 ∧ FiniteNonneg 0x7FEFFFFFFFFFFFFF#64 ∧
    ¬ FiniteNonneg 0x8000000000000001#64 ∧ ¬ FiniteNonneg 0x7FF0000000000000#64 ∧ (0#10 : Sample) ≤ 1023#10 := by
  decide +kernel

theorem witness_VoltageAtSpecialValues :
    isFinite v33 = true ∧ isFinite 0x8000000000000000#64 = true ∧ (1#10 : Sample) ≠ 0#10 ∧
    isNaN 0x7FF8000000000000#64 = true := by decide +kernel

end Sys2Proof.Machine.Tests
end

/-! PROOFS. The state elements CS and VREF: the levels the operations leave on the select line (10_state R22), and the
reference voltage, written by CONSTRUCT alone and read by REFERENCE_VOLTAGE and READ_VOLTAGE alone (10_state R24). -/

namespace Sys2Proof.Machine

/-! ## The select line -/

@[simp] theorem select_cs (op : ReadOp) (s : State) : (select op s).cs = .active := by
  rw [select_eq]

@[simp] theorem release_cs (s : State) : (release s).cs = .inactive := by
  rw [release_eq]

@[simp] theorem constructed_cs (v : Option FloatBits) (s : State) : (constructed v s).cs = .inactive := by
  rw [constructed_eq]

/-- Settles O7: each operation's level is one of the two names, and the names map to the two bits. -/
theorem selectIsActiveLow : Obligations.SelectIsActiveLow := by
  refine ⟨rfl, rfl, fun op s => ?_, fun s => ?_, fun v s => ?_⟩
  · rw [select_cs, Level.toBit]
  · rw [release_cs, Level.toBit]
  · rw [constructed_cs, Level.toBit]

/-! ## No step without a hardware reset writes VREF after CONSTRUCT -/

/-- `s` is past CONSTRUCT, its reset input is not asserted, and its reference voltage is `v`. The first two conditions
are what makes the third an invariant: only CONSTRUCT, accepted in UNBUILT, and hardware reset write VREF. -/
structure HoldsVref (v : FloatBits) (s : State) : Prop where
  built : s.phase ≠ .unbuilt
  not_resetting : s.resetLine = false
  vref_eq : s.vref = v

namespace HoldsVref

variable {v : FloatBits} {s t : State}

theorem commands (h : HoldsVref v s) (cs : List CommandWord) : HoldsVref v { s with commands := cs } :=
  ⟨h.built, h.not_resetting, h.vref_eq⟩

theorem transport (h : HoldsVref v s) (rs : List XferAnswer) : HoldsVref v { s with transport := rs } :=
  ⟨h.built, h.not_resetting, h.vref_eq⟩

theorem endWith (h : HoldsVref v s) (o : OpOutcome) : HoldsVref v (endWith o s) :=
  ⟨h.built, h.not_resetting, h.vref_eq⟩

theorem select (h : HoldsVref v s) (op : ReadOp) : HoldsVref v (select op s) := by
  rw [select_eq]
  exact ⟨Phase.noConfusion, h.not_resetting, h.vref_eq⟩

theorem request (h : HoldsVref v s) : HoldsVref v (request s) := by
  rw [request_eq]
  exact ⟨Phase.noConfusion, h.not_resetting, h.vref_eq⟩

theorem answer (h : HoldsVref v s) (r : XferAnswer) : HoldsVref v (answer r s) := by
  cases r with
  | ok b0 b1 =>
    rw [answer_ok_eq]
    exact ⟨Phase.noConfusion, h.not_resetting, h.vref_eq⟩
  | err e =>
    rw [answer_err_eq]
    exact ⟨Phase.noConfusion, h.not_resetting, h.vref_eq⟩

theorem release (h : HoldsVref v s) : HoldsVref v (release s) := by
  rw [release_eq]
  exact ⟨Phase.noConfusion, h.not_resetting, h.vref_eq⟩

theorem takeAnswer (h : HoldsVref v s) : HoldsVref v (takeAnswer s) := by
  cases ht : s.transport with
  | nil => rwa [takeAnswer_silent ht]
  | cons r rest =>
    rw [takeAnswer_answered ht]
    exact (h.transport rest).answer r

theorem awaitAnswer (h : HoldsVref v s) : HoldsVref v (awaitAnswer s) := by
  cases ht : s.transport with
  | nil => rwa [awaitAnswer_silent ht]
  | cons r rest =>
    rw [awaitAnswer_answered ht]
    exact ((h.transport rest).answer r).release

theorem transaction (h : HoldsVref v s) (op : ReadOp) : HoldsVref v (transaction op s) :=
  (h.select op).request.awaitAnswer

theorem continueOperation (h : HoldsVref v s) : HoldsVref v (continueOperation s) := by
  unfold Machine.continueOperation
  split
  · exact h
  · exact h
  · exact h.request.awaitAnswer
  · exact h.awaitAnswer
  · exact h.release

theorem exec {i : Instr} (h : HoldsVref v s) (hx : exec i s = .next t) : HoldsVref v t := by
  obtain ⟨_, -, hp, -⟩ | ⟨-, -, rfl⟩ | ⟨op, -, -, rfl⟩ := exec_next hx
  · exact absurd hp h.built
  · exact h.endWith _
  · exact h.transaction op

theorem issue {i : Instr} (h : HoldsVref v s) (hx : issue i s = .next t) : HoldsVref v t := by
  obtain ⟨_, -, hp, -⟩ | ⟨-, -, rfl⟩ | ⟨op, -, -, rfl⟩ := issue_next hx
  · exact absurd hp h.built
  · exact h.endWith _
  · exact h.select op

theorem step (h : HoldsVref v s) (hs : step s = .next t) : HoldsVref v t := by
  obtain ⟨hr, -⟩ | ⟨-, -, -, rfl⟩ | ⟨_, rest, _, -, -, -, -, hx⟩ | ⟨-, -, rfl⟩ := step_next hs
  · simp [h.not_resetting] at hr
  · exact h
  · exact (h.commands rest).exec hx
  · exact h.continueOperation

theorem microStep (h : HoldsVref v s) (hs : microStep s = .next t) : HoldsVref v t := by
  obtain ⟨hr, -⟩ | ⟨-, -, -, rfl⟩ | ⟨_, rest, _, -, -, -, -, hx⟩ | ⟨-, -, rfl⟩ | ⟨-, -, rfl⟩ | ⟨-, -, rfl⟩ :=
    microStep_next hs
  · simp [h.not_resetting] at hr
  · exact h
  · exact (h.commands rest).issue hx
  · exact h.request
  · exact h.takeAnswer
  · exact h.release

theorem core_run {k : Nat} (h : HoldsVref v s) (hk : core.run k s = .next t) : HoldsVref v t :=
  run_keeps (M := core) (P := HoldsVref v) (fun _ _ hs => hs.step) h hk

theorem microCore_run {k : Nat} (h : HoldsVref v s) (hk : microCore.run k s = .next t) : HoldsVref v t :=
  run_keeps (M := microCore) (P := HoldsVref v) (fun _ _ hs => hs.microStep) h hk

end HoldsVref

/-! ## Who reads VREF -/

/-- Everything a read operation can do, as an executed instruction. -/
theorem exec_read_next {op : ReadOp} {s t : State} (h : exec (readInstr op) s = .next t) :
    s.phase = .idle ∧ t = transaction op s := by
  cases op <;> exact readOperation_next h

/-- Only READ_VOLTAGE's result depends on the reference voltage. -/
theorem readResult_vref_irrelevant {op : ReadOp} (hop : op ≠ .readVoltage) (v w : FloatBits) (b0 b1 : Byte) :
    readResult op v b0 b1 = readResult op w b0 b1 := by
  cases op with
  | readVoltage => exact absurd rfl hop
  | readRaw => rfl
  | readScaledU16 => rfl

theorem transaction_storeVref {op : ReadOp} (hop : op ≠ .readVoltage) (v : FloatBits) (s : State) :
    transaction op (storeVref v s) = storeVref v (transaction op s) := by
  obtain ht | ⟨b0, b1, rest, ht⟩ | ⟨e, rest, ht⟩ := transport_cases s
  · rw [transaction_silent op ht, transaction_silent op (by exact ht)]
    rfl
  · rw [transaction_ok op ht, transaction_ok op (by exact ht), storeVref_vref,
      readResult_vref_irrelevant hop v s.vref]
    rfl
  · rw [transaction_err op ht, transaction_err op (by exact ht)]
    rfl

theorem exec_read_storeVref {op : ReadOp} (hop : op ≠ .readVoltage) (v : FloatBits) {s t : State}
    (h : exec (readInstr op) s = .next t) : exec (readInstr op) (storeVref v s) = .next (storeVref v t) := by
  obtain ⟨hp, rfl⟩ := exec_read_next h
  rw [exec_read op (by exact hp), transaction_storeVref hop]

/-- REFERENCE_VOLTAGE returns VREF. -/
theorem exec_referenceVoltage_outcomes {s t : State} (h : exec .referenceVoltage s = .next t) :
    t.outcomes = s.outcomes ++ [.ok (.reference s.vref)] := by
  obtain ⟨_, hi, -⟩ | ⟨-, -, rfl⟩ | ⟨op, hi, -⟩ := exec_next h
  · cases hi
  · exact endWith_outcomes s _
  · cases op <;> cases hi

/-- A read that the transport answers with a frame returns the value of that frame at the stored VREF. -/
theorem exec_read_outcomes {s : State} (op : ReadOp) {b0 b1 : Byte} {rest : List XferAnswer} (hp : s.phase = .idle)
    (ht : s.transport = .ok b0 b1 :: rest) :
    ∃ t, exec (readInstr op) s = .next t ∧ t.outcomes = s.outcomes ++ [.ok (readResult op s.vref b0 b1)] :=
  ⟨transaction op s, exec_read op hp, by rw [transaction_ok op ht]⟩

/-- In UNBUILT, CONSTRUCT stores its operand, or the default without one. -/
theorem exec_construct_vref (v : Option FloatBits) {s : State} (hp : s.phase = .unbuilt) :
    ∃ t, exec (.construct v) s = .next t ∧ t.vref = vrefToStore v :=
  ⟨constructed v s, exec_construct v hp, by rw [constructed_eq]⟩

/-- Settles O17: the write by CONSTRUCT, `HoldsVref` as the invariant of both machines' runs, and the readers of VREF. -/
theorem vrefIsWrittenOnce : Obligations.VrefIsWrittenOnce := by
  refine ⟨fun v _ hp => exec_construct_vref (some v) hp, fun _ hp => exec_construct_vref none hp, ?unchanged,
    fun _ _ h => exec_referenceVoltage_outcomes h, fun s b0 b1 rest hp ht => exec_read_outcomes .readVoltage hp ht,
    fun v _ _ => ⟨?raw, ?scaled⟩⟩
  case unchanged =>
    intro k s t hp hr hk
    have hs : HoldsVref s.vref s := ⟨hp, hr, rfl⟩
    obtain hk | hk := hk
    · exact (hs.core_run hk).vref_eq
    · exact (hs.microCore_run hk).vref_eq
  case raw => exact exec_read_storeVref (op := .readRaw) ReadOp.noConfusion v
  case scaled => exact exec_read_storeVref (op := .readScaledU16) ReadOp.noConfusion v

end Sys2Proof.Machine

/-! PROOFS. Memory: how the two bytes of a frame stand in the frame word and in the sample (20_memory R44), and how the
answer fills BUF (41_read_raw R91). -/

namespace Sys2Proof.Machine

/-! ## The frame and the sample -/

/-- The mask of the first byte keeps its two least-significant bits. -/
@[simp] theorem getLsbD_byte0Mask (i : Nat) : Config.byte0Mask.getLsbD i = decide (i < 2) := by
  have hmask : Config.byte0Mask = (BitVec.allOnes 2).setWidth 8 := by decide
  rw [hmask, BitVec.getLsbD_setWidth, BitVec.getLsbD_allOnes, Bool.and_eq_right_iff_imp]
  simp only [decide_eq_true_eq]
  omega

/-- 30_encoding R63. Below bit 8 the sample is the second byte; in bits 8 and 9 the shift brings the kept bits of the
first byte. -/
theorem extract_eq_append (b0 b1 : Byte) : extract b0 b1 = b0.extractLsb' 0 2 ++ b1 := by
  apply BitVec.eq_of_getLsbD_eq
  intro i hi
  refine Eq.trans ?_ BitVec.getLsbD_append.symm
  by_cases hlow : i < 8
  · simp [extract, Config.byte0Shift, hlow, hi]
  · have hb1 : b1.getLsbD i = false := b1.getLsbD_of_ge i (by omega)
    have hkept : i - 8 < 2 := by omega
    simp [extract, Config.byte0Shift, hlow, hi, hb1, hkept]

theorem extractLsb'_high_extract (b0 b1 : Byte) : (extract b0 b1).extractLsb' 8 2 = b0.extractLsb' 0 2 := by
  rw [extract_eq_append]
  exact BitVec.extractLsb'_append_eq_left

theorem extractLsb'_low_extract (b0 b1 : Byte) : (extract b0 b1).extractLsb' 0 8 = b1 := by
  rw [extract_eq_append]
  exact BitVec.extractLsb'_append_eq_right

theorem extractLsb'_high_frameWord (b0 b1 : Byte) : (frameWord b0 b1).extractLsb' 8 8 = b0 :=
  BitVec.extractLsb'_append_eq_left

theorem extractLsb'_low_frameWord (b0 b1 : Byte) : (frameWord b0 b1).extractLsb' 0 8 = b1 :=
  BitVec.extractLsb'_append_eq_right

theorem extract_eq_extractLsb'_frameWord (b0 b1 : Byte) : extract b0 b1 = (frameWord b0 b1).extractLsb' 0 10 := by
  rw [extract_eq_append, frameWord, BitVec.extractLsb'_append_eq_ite]
  simp

/-! ## BUF -/

@[simp] theorem release_buf0 (s : State) : (release s).buf0 = s.buf0 := by
  rw [release_eq]

@[simp] theorem release_buf1 (s : State) : (release s).buf1 = s.buf1 := by
  rw [release_eq]

@[simp] theorem answer_cs (r : XferAnswer) (s : State) : (answer r s).cs = s.cs := by
  cases r with
  | ok b0 b1 => rw [answer_ok_eq]
  | err e => rw [answer_err_eq]

@[simp] theorem answer_ok_buf0 (b0 b1 : Byte) (s : State) : (answer (.ok b0 b1) s).buf0 = b0 := by
  rw [answer_ok_eq]

@[simp] theorem answer_ok_buf1 (b0 b1 : Byte) (s : State) : (answer (.ok b0 b1) s).buf1 = b1 := by
  rw [answer_ok_eq]

/-- Settles O3: the sample and the frame as concatenations of the bytes, and BUF through `answer` and `release`. -/
theorem frameIsBigEndian : Obligations.FrameIsBigEndian := by
  refine ⟨fun b0 b1 => ⟨extractLsb'_high_extract b0 b1, extractLsb'_low_extract b0 b1,
    extractLsb'_high_frameWord b0 b1, extractLsb'_low_frameWord b0 b1, extract_eq_extractLsb'_frameWord b0 b1⟩,
    fun b0 b1 s => ⟨answer_ok_buf0 b0 b1 s, answer_ok_buf1 b0 b1 s, answer_cs _ s, ?_, ?_⟩⟩
  · rw [release_buf0, answer_ok_buf0]
  · rw [release_buf1, answer_ok_buf1]

end Sys2Proof.Machine

/-! PROOFS. Encoding: the number a frame stands for (30_encoding R62), and the sample in the value a successful release
returns (41_read_raw R99). -/

namespace Sys2Proof.Machine

/-- 30_encoding R62. The formula on the bytes' numbers loses no bit: masking with 3 is taking the two low bits. -/
theorem extract_toNat (b0 b1 : Byte) : (extract b0 b1).toNat = ((b0.toNat &&& 3) <<< 8) ||| b1.toNat := by
  have hmask : b0.toNat &&& 3 = b0.toNat % 4 := Nat.and_two_pow_sub_one_eq_mod b0.toNat 2
  rw [extract_eq_append, BitVec.toNat_append, BitVec.extractLsb'_toNat, hmask, Nat.shiftRight_zero]

theorem extract_toNat_le (b0 b1 : Byte) : (extract b0 b1).toNat ≤ 1023 :=
  Nat.le_of_lt_succ (extract b0 b1).isLt

/-- After a successful answer the release returns the value of the operation in hand, computed from BUF and VREF. -/
theorem release_outcomes_of_ok {s : State} (hans : s.ans = .ok) :
    (release s).outcomes = s.outcomes ++ [.ok (readResult s.op s.vref s.buf0 s.buf1)] := by
  simp only [release_eq, releaseOutcome, hans]

/-- Settles O1: `extract` as a number, and the outcome of the release for each of the three reads. -/
theorem extractIsMaskShiftOr : Obligations.ExtractIsMaskShiftOr := by
  refine ⟨fun b0 b1 => ⟨extract_toNat b0 b1, extract_toNat_le b0 b1⟩, fun s _ hans => ?_⟩
  rw [release_outcomes_of_ok hans]
  exact ⟨fun hop => by rw [hop, readResult], fun hop => by rw [hop, readResult], fun hop => by rw [hop, readResult]⟩

end Sys2Proof.Machine

/-! PROOFS. Configuration: the whole next state and the command word of CONSTRUCT (40_configuration R80) and of
REFERENCE_VOLTAGE (40_configuration R82). -/

namespace Sys2Proof.Machine

/-- 30_encoding R68. -/
theorem vrefToStore_eq_getD (v : Option FloatBits) : vrefToStore v = v.getD vrefDefault := by
  cases v <;> rfl

/-- 30_encoding R67, R68. The bit `vref_present` tells the two kinds of operand apart; `vref` counts only where it is
set. -/
theorem vrefOperand_encode_construct (v : Option FloatBits) : vrefOperand (encode (.construct v)) = v := by
  cases v <;> simp [encode, encodeCV, vrefOperand]

/-- Settles O15: `constructed` is the next state, field by field, and the operand comes back out of the word. -/
theorem constructInitialises : Obligations.ConstructInitialises := by
  refine ⟨fun v s hp => ?_, fun v => ⟨Laws.EncodeCode.construct v, vrefOperand_encode_construct v⟩⟩
  rw [exec_construct v hp, constructed_eq, vrefToStore_eq_getD]

/-- Settles O16: REFERENCE_VOLTAGE in IDLE is `endWith` with the stored VREF, which adds an outcome and nothing else. -/
theorem referenceVoltageReturnsVref : Obligations.ReferenceVoltageReturnsVref := by
  refine ⟨fun s hp => ?_, Laws.EncodeCode.referenceVoltage⟩
  rw [exec_referenceVoltage hp, endWith]

end Sys2Proof.Machine

/-! PROOFS. The transaction (41_read_raw R92, R93): its event trace with a successful and with a failed answer, which
the transport gives at once or while the operation waits. -/

namespace Sys2Proof.Machine

/-! ## The answer that comes in WAIT -/

/-- In WAIT a step waits for the answer, and does nothing else. -/
theorem step_wait {s : State} (hr : s.resetLine = false) (hp : s.phase = .wait) : step s = .next (awaitAnswer s) := by
  rw [step_active hr (by rw [hp, Phase.active]), continueOperation, hp]

/-- A waiting operation answered with a frame. -/
theorem awaitAnswer_ok {s : State} {b0 b1 : Byte} {rest : List XferAnswer} (h : s.transport = .ok b0 b1 :: rest) :
    awaitAnswer s =
      { s with cs := .inactive, phase := .idle, buf0 := b0, buf1 := b1, ans := .ok, transport := rest,
               trace := s.trace ++ [.xferResp (.ok b0 b1), .csWrite .inactive],
               outcomes := s.outcomes ++ [.ok (readResult s.op s.vref b0 b1)] } := by
  rw [awaitAnswer_answered h, answer_ok_eq, release_eq]
  simp [releaseOutcome]

/-- A waiting operation answered with an error: BUF holds free values. -/
theorem awaitAnswer_err {s : State} {e : TransportError} {rest : List XferAnswer} (h : s.transport = .err e :: rest) :
    awaitAnswer s =
      { s with cs := .inactive, phase := .idle, buf0 := Config.freeByte s.draws,
               buf1 := Config.freeByte (s.draws + 1), draws := s.draws + 2, ans := .err e, transport := rest,
               trace := s.trace ++ [.xferResp (.err e), .csWrite .inactive], outcomes := s.outcomes ++ [.err e] } := by
  rw [awaitAnswer_answered h, answer_err_eq, release_eq]
  simp [releaseOutcome]

/-! ## The two paths of a read -/

/-- Settles O21: a read in IDLE is `transaction`, answered or silent, and a step in WAIT is `awaitAnswer`; the lemma on
each gives the whole state it ends in. -/
theorem successfulReadHasFourEvents : Obligations.SuccessfulReadHasFourEvents := by
  refine ⟨fun op s b0 b1 rest hcs hp ht => ⟨hcs.1 hp, transaction op s, exec_read op hp, ?answered⟩,
    fun op s hp ht => ⟨transaction op s, exec_read op hp, ?silent⟩,
    fun s b0 b1 rest hp hr ht => ⟨awaitAnswer s, step_wait hr hp, ?late⟩⟩
  case answered =>
    rw [transaction_ok op ht]
    exact ⟨rfl, rfl, rfl, rfl⟩
  case silent =>
    rw [transaction_silent op ht]
    exact ⟨rfl, rfl, rfl⟩
  case late =>
    rw [awaitAnswer_ok ht]
    exact ⟨rfl, rfl, rfl, rfl⟩

/-- Settles O22: the states in which `transaction` and `awaitAnswer` end when the answer is an error. -/
theorem failedReadRestoresTheSelectLine : Obligations.FailedReadRestoresTheSelectLine := by
  refine ⟨fun op s e rest hp ht => ⟨transaction op s, exec_read op hp, ?atOnce⟩,
    fun s e rest hp hr ht => ⟨awaitAnswer s, step_wait hr hp, ?late⟩⟩
  case atOnce =>
    rw [transaction_err op ht]
    exact ⟨rfl, rfl, rfl, rfl, rfl, rfl⟩
  case late =>
    rw [awaitAnswer_err ht]
    exact ⟨rfl, rfl, rfl, rfl, rfl, rfl⟩

end Sys2Proof.Machine

/-! PROOFS. The 16-bit scaling of a sample as a number (42_scaled_reads R116, R118). -/

namespace Sys2Proof.Machine

/-- 42_scaled_reads R120: no bit is lost on the left, for `raw` has width 10 and `10 + 6 = 16`. -/
theorem toNat_setWidth_shiftLeft_six (raw : Sample) : (raw.setWidth 16 <<< 6).toNat = raw.toNat <<< 6 := by
  have hfits : raw.toNat <<< 6 < 2 ^ 16 := by rw [Nat.shiftLeft_eq]; omega
  rw [BitVec.toNat_shiftLeft, BitVec.toNat_setWidth_of_le (by decide), Nat.mod_eq_of_lt hfits]

/-- 42_scaled_reads R118. -/
theorem scaleU16_toNat (raw : Sample) : (scaleU16 raw).toNat = (raw.toNat <<< 6) ||| (raw.toNat >>> 4) := by
  rw [scaleU16, Config.u16LShift, Config.u16RShift, BitVec.toNat_or, toNat_setWidth_shiftLeft_six,
    BitVec.toNat_ushiftRight, BitVec.toNat_setWidth_of_le (by decide)]

/-- Settles O5: the formula over the naturals for every sample, and its value at full scale. -/
theorem scaleIsTheExactBitFormula : Obligations.ScaleIsTheExactBitFormula := by
  refine ⟨scaleU16_toNat, ?fullScale⟩
  case fullScale =>
    rw [scaleU16_toNat]
    decide

end Sys2Proof.Machine

/-! PROOFS. When the exception is raised (60_exceptions R133): exactly when the one request of a read is answered with
an error, by an executed instruction and by a step in WAIT. -/

namespace Sys2Proof.Machine

/-- From `s` to `t` an operation has ended with `Err(e)`. -/
def Raises (e : TransportError) (s t : State) : Prop := .err e ∈ t.outcomes.drop s.outcomes.length

theorem raises_iff_of_outcomes {e : TransportError} {s t : State} {o : OpOutcome}
    (h : t.outcomes = s.outcomes ++ [o]) : Raises e s t ↔ o = .err e := by
  rw [Raises, h, List.drop_left, List.mem_singleton, eq_comm]

theorem not_raises_self (e : TransportError) (s : State) : ¬ Raises e s s := by
  simp [Raises]

theorem raises_awaitAnswer_iff {e : TransportError} {s : State} :
    Raises e s (awaitAnswer s) ↔ ∃ rest, s.transport = .err e :: rest := by
  obtain ht | ⟨b0, b1, rest, ht⟩ | ⟨e', rest, ht⟩ := transport_cases s
  · rw [awaitAnswer_silent ht]
    simp [not_raises_self, ht]
  · rw [raises_iff_of_outcomes (by rw [awaitAnswer_ok ht])]
    simp [ht]
  · rw [raises_iff_of_outcomes (by rw [awaitAnswer_err ht])]
    simp [ht]

/-- Until the answer, a transaction changes neither the outcomes nor what the transport has to say. -/
theorem raises_transaction_iff {e : TransportError} {op : ReadOp} {s : State} :
    Raises e s (transaction op s) ↔ ∃ rest, s.transport = .err e :: rest :=
  raises_awaitAnswer_iff (s := request (select op s))

theorem construct_ne_readInstr (v : Option FloatBits) (op : ReadOp) : Instr.construct v ≠ readInstr op := by
  cases op <;> nofun

theorem referenceVoltage_ne_readInstr (op : ReadOp) : Instr.referenceVoltage ≠ readInstr op := by
  cases op <;> nofun

theorem exec_raises_iff {i : Instr} {e : TransportError} {s t : State} (h : exec i s = .next t) :
    Raises e s t ↔ (∃ op, i = readInstr op) ∧ ∃ rest, s.transport = .err e :: rest := by
  obtain ⟨v, rfl, -, rfl⟩ | ⟨rfl, -, rfl⟩ | ⟨op, rfl, -, rfl⟩ := exec_next h
  · rw [raises_iff_of_outcomes (by rw [constructed_eq])]
    simp [construct_ne_readInstr]
  · rw [raises_iff_of_outcomes (endWith_outcomes s _)]
    simp [referenceVoltage_ne_readInstr]
  · rw [raises_transaction_iff]
    exact (and_iff_right ⟨op, rfl⟩).symm

/-- Settles O23: an instruction, or a step in WAIT, that raises the exception has an error for its answer
(`exec_raises_iff`, `raises_awaitAnswer_iff`), and the state it then ends in is that of `transaction_err` or
`awaitAnswer_err`. -/
theorem errorExactlyWhenTransportFails : Obligations.ErrorExactlyWhenTransportFails := by
  refine ⟨fun i s t e hx => ⟨exec_raises_iff hx, fun hraised => ?executed⟩, fun s t e hp hr hs => ?waiting⟩
  case executed =>
    obtain ⟨⟨op, rfl⟩, rest, ht⟩ := (exec_raises_iff hx).mp hraised
    obtain ⟨-, rfl⟩ := exec_read_next hx
    rw [transaction_err op ht]
    exact ⟨rfl, rfl, rfl, rfl⟩
  case waiting =>
    obtain rfl : awaitAnswer s = t := by simpa [step_wait hr hp] using hs
    refine ⟨raises_awaitAnswer_iff, fun hraised => ?_⟩
    obtain ⟨rest, ht⟩ := raises_awaitAnswer_iff.mp hraised
    rw [awaitAnswer_err ht]
    exact ⟨rfl, rfl, rfl, rfl⟩

end Sys2Proof.Machine

/-! PROOFS. The end of an operation (70_reset_and_hazards R158): a step that adds an outcome, of either machine, adds one
and leaves the line at 1 and PHASE at IDLE. -/

namespace Sys2Proof.Machine

@[simp] theorem answer_outcomes (r : XferAnswer) (s : State) : (answer r s).outcomes = s.outcomes := by
  cases r with
  | ok b0 b1 => rw [answer_ok_eq]
  | err e => rw [answer_err_eq]

@[simp] theorem takeAnswer_outcomes (s : State) : (takeAnswer s).outcomes = s.outcomes := by
  cases ht : s.transport with
  | nil => rw [takeAnswer_silent ht]
  | cons r rest => rw [takeAnswer_answered ht, answer_outcomes]

/-- A state reached in one step from a state with `n` outcomes: if an operation has ended, only one has, and it has left
the select line at 1 and PHASE at IDLE. -/
def EndsDeselected (n : Nat) (t : State) : Prop :=
  n < t.outcomes.length → t.outcomes.length = n + 1 ∧ t.cs = .inactive ∧ t.phase = .idle

namespace EndsDeselected

variable {s t : State}

theorem of_no_end {n : Nat} (h : t.outcomes.length ≤ n) : EndsDeselected n t :=
  fun hadded => absurd hadded h.not_gt

theorem of_end {o : OpOutcome} (ho : t.outcomes = s.outcomes ++ [o]) (hcs : t.cs = .inactive) (hp : t.phase = .idle) :
    EndsDeselected s.outcomes.length t :=
  fun _ => ⟨by rw [ho, List.length_append, List.length_singleton], hcs, hp⟩

theorem constructed (v : Option FloatBits) : EndsDeselected s.outcomes.length (constructed v s) := by
  rw [constructed_eq]
  exact of_end rfl rfl rfl

/-- REFERENCE_VOLTAGE drives no line: it ends deselected because it starts so. -/
theorem referenceVoltage (hcs : CsMatchesPhase s) (hp : s.phase = .idle) :
    EndsDeselected s.outcomes.length (endWith (.ok (.reference s.vref)) s) :=
  of_end (endWith_outcomes s _) (hcs.1 hp) hp

theorem release : EndsDeselected s.outcomes.length (release s) := by
  rw [release_eq]
  exact of_end rfl rfl rfl

theorem awaitAnswer : EndsDeselected s.outcomes.length (awaitAnswer s) := by
  cases ht : s.transport with
  | nil =>
    rw [awaitAnswer_silent ht]
    exact of_no_end le_rfl
  | cons r rest =>
    rw [awaitAnswer_answered ht]
    simpa using release (s := answer r { s with transport := rest })

theorem transaction (op : ReadOp) : EndsDeselected s.outcomes.length (transaction op s) :=
  awaitAnswer (s := request (select op s))

theorem continueOperation : EndsDeselected s.outcomes.length (continueOperation s) := by
  unfold Machine.continueOperation
  split
  · exact of_no_end le_rfl
  · exact of_no_end le_rfl
  · exact awaitAnswer (s := request s)
  · exact awaitAnswer
  · exact release

theorem hardwareReset (n : Nat) : EndsDeselected n (hardwareReset s) :=
  of_no_end n.zero_le

theorem exec {i : Instr} (hcs : CsMatchesPhase s) (hx : exec i s = .next t) : EndsDeselected s.outcomes.length t := by
  obtain ⟨v, -, -, rfl⟩ | ⟨-, hp, rfl⟩ | ⟨op, -, -, rfl⟩ := exec_next hx
  · exact constructed v
  · exact referenceVoltage hcs hp
  · exact transaction op

theorem issue {i : Instr} (hcs : CsMatchesPhase s) (hx : issue i s = .next t) : EndsDeselected s.outcomes.length t := by
  obtain ⟨v, -, -, rfl⟩ | ⟨-, hp, rfl⟩ | ⟨op, -, -, rfl⟩ := issue_next hx
  · exact constructed v
  · exact referenceVoltage hcs hp
  · exact of_no_end le_rfl

theorem step (hcs : CsMatchesPhase s) (hs : step s = .next t) : EndsDeselected s.outcomes.length t := by
  obtain ⟨-, rfl⟩ | ⟨-, -, -, rfl⟩ | ⟨_, rest, _, -, -, -, -, hx⟩ | ⟨-, -, rfl⟩ := step_next hs
  · exact hardwareReset _
  · exact of_no_end le_rfl
  · exact exec (s := { s with commands := rest }) hcs hx
  · exact continueOperation

/-- At the event level only CONSTRUCT, REFERENCE_VOLTAGE and the release end an operation. -/
theorem microStep (hcs : CsMatchesPhase s) (hs : microStep s = .next t) : EndsDeselected s.outcomes.length t := by
  obtain ⟨-, rfl⟩ | ⟨-, -, -, rfl⟩ | ⟨_, rest, _, -, -, -, -, hx⟩ | ⟨-, -, rfl⟩ | ⟨-, -, rfl⟩ | ⟨-, -, rfl⟩ :=
    microStep_next hs
  · exact hardwareReset _
  · exact of_no_end le_rfl
  · exact issue (s := { s with commands := rest }) hcs hx
  · exact of_no_end le_rfl
  · exact of_no_end (by rw [takeAnswer_outcomes])
  · exact release

end EndsDeselected

/-- Settles O42: every step of either machine is `EndsDeselected`. -/
theorem noOperationEndsSelected : Obligations.NoOperationEndsSelected := by
  intro s t hcs hs
  obtain hs | hs := hs
  · exact EndsDeselected.step hcs hs
  · exact EndsDeselected.microStep hcs hs

end Sys2Proof.Machine

/-! PROOFS. Command words: what the decoder answers for each code, and that it inverts the encoder (30_encoding R65 to
R68). -/

namespace Sys2Proof

/-! ## The decoder by the code -/

section ByCode

variable {w : CommandWord}

theorem decode_code_construct (h : CommandWord.cmd w = 0b000#3) : decode w = some (.construct (vrefOperand w)) := by
  simp [decode, h]

theorem decode_code_referenceVoltage (h : CommandWord.cmd w = 0b001#3) : decode w = some .referenceVoltage := by
  simp [decode, h]

theorem decode_code_readRaw (h : CommandWord.cmd w = 0b010#3) : decode w = some .readRaw := by
  simp [decode, h]

theorem decode_code_readVoltage (h : CommandWord.cmd w = 0b011#3) : decode w = some .readVoltage := by
  simp [decode, h]

theorem decode_code_readScaledU16 (h : CommandWord.cmd w = 0b100#3) : decode w = some .readScaledU16 := by
  simp [decode, h]

theorem codeDefined_eq_false_iff :
    CommandWord.codeDefined w = false ↔
      CommandWord.cmd w = 0b101#3 ∨ CommandWord.cmd w = 0b110#3 ∨ CommandWord.cmd w = 0b111#3 := by
  have hcodes : ∀ c : BitVec 3, decide (c ≤ 0b100#3) = false ↔ c = 0b101#3 ∨ c = 0b110#3 ∨ c = 0b111#3 := by decide
  exact hcodes (CommandWord.cmd w)

theorem decode_reserved (h : CommandWord.codeDefined w = false) : decode w = none := by
  obtain h | h | h := codeDefined_eq_false_iff.mp h <;> simp [decode, h]

end ByCode

/-- A code is that of one of the five operations, or reserved. -/
theorem cmd_cases (w : CommandWord) :
    CommandWord.cmd w = 0b000#3 ∨ CommandWord.cmd w = 0b001#3 ∨ CommandWord.cmd w = 0b010#3 ∨
    CommandWord.cmd w = 0b011#3 ∨ CommandWord.cmd w = 0b100#3 ∨ CommandWord.codeDefined w = false := by
  have hcodes : ∀ c : BitVec 3, c = 0b000#3 ∨ c = 0b001#3 ∨ c = 0b010#3 ∨ c = 0b011#3 ∨ c = 0b100#3 ∨
      decide (c ≤ 0b100#3) = false := by decide
  exact hcodes (CommandWord.cmd w)

/-! ## Decoder and encoder -/

theorem vrefOperand_present {w : CommandWord} (h : CommandWord.vrefPresent w = 1#1) :
    vrefOperand w = some (CommandWord.vref w) := by
  rw [vrefOperand, if_pos h]

theorem vrefOperand_absent {w : CommandWord} (h : CommandWord.vrefPresent w = 0#1) : vrefOperand w = none := by
  rw [vrefOperand, if_neg (by rw [h]; decide)]

/-- The code tells the operations apart, and CONSTRUCT's operand comes back out of its two fields. -/
theorem decode_encode (i : Instr) : decode (encode i) = some i := by
  cases i with
  | construct v =>
    rw [decode_code_construct (Laws.EncodeCode.construct v), Machine.vrefOperand_encode_construct]
  | referenceVoltage => exact decode_code_referenceVoltage Laws.EncodeCode.referenceVoltage
  | readRaw => exact decode_code_readRaw Laws.EncodeCode.readRaw
  | readVoltage => exact decode_code_readVoltage Laws.EncodeCode.readVoltage
  | readScaledU16 => exact decode_code_readScaledU16 Laws.EncodeCode.readScaledU16

/-- A canonical word of format C is its code and nothing else. -/
theorem encodeC_of_cmd {w : CommandWord} {c : BitVec 3} (hcmd : CommandWord.cmd w = c) (hc : c ≠ 0b000#3)
    (h : CommandWord.operandsCanonical w = true) : encodeC c = w := by
  subst hcmd
  obtain ⟨hpresent, hvref⟩ : CommandWord.vrefPresent w = 0#1 ∧ CommandWord.vref w = 0#64 := by
    simpa [CommandWord.operandsCanonical, hc] using h
  rw [encodeC, ← hpresent, ← hvref, packCommand_fields]

/-- A canonical word of format CV is its code and the operand it carries. -/
theorem encodeCV_of_cmd {w : CommandWord} (hcmd : CommandWord.cmd w = 0b000#3)
    (h : CommandWord.operandsCanonical w = true) : encodeCV 0b000#3 (vrefOperand w) = w := by
  have hcanonical : CommandWord.vrefPresent w = 1#1 ∨ CommandWord.vref w = 0#64 := by
    simpa [CommandWord.operandsCanonical, hcmd] using h
  rcases BitVec.eq_zero_or_eq_one (CommandWord.vrefPresent w) with hpresent | hpresent
  · have hvref : CommandWord.vref w = 0#64 := by simpa [hpresent] using hcanonical
    rw [vrefOperand_absent hpresent, encodeCV, ← hvref, ← hpresent, ← hcmd, packCommand_fields]
  · rw [vrefOperand_present hpresent, encodeCV, ← hpresent, ← hcmd, packCommand_fields]

/-- A canonical word is the word of what it decodes to. -/
theorem encode_of_decode {w : CommandWord} {i : Instr} (hd : decode w = some i)
    (h : CommandWord.operandsCanonical w = true) : encode i = w := by
  obtain hc | hc | hc | hc | hc | hc := cmd_cases w
  · cases (decode_code_construct hc).symm.trans hd
    exact encodeCV_of_cmd hc h
  · cases (decode_code_referenceVoltage hc).symm.trans hd
    exact encodeC_of_cmd hc (by decide) h
  · cases (decode_code_readRaw hc).symm.trans hd
    exact encodeC_of_cmd hc (by decide) h
  · cases (decode_code_readVoltage hc).symm.trans hd
    exact encodeC_of_cmd hc (by decide) h
  · cases (decode_code_readScaledU16 hc).symm.trans hd
    exact encodeC_of_cmd hc (by decide) h
  · cases (decode_reserved hc).symm.trans hd

end Sys2Proof

namespace Sys2Proof.Machine

/-- Settles O8: `decode_encode`; every instruction is well formed, so the hypothesis is not needed. -/
theorem decodeOfEncode : Obligations.DecodeOfEncode := fun i _ => decode_encode i

/-- Settles O9: a word is the packing of its three fields, of which the decoder keeps all that carry something. -/
theorem encodeOfDecode : Obligations.EncodeOfDecode := fun _ _ hd h => encode_of_decode hd h

/-- Settles O10: the equation of the decoder for each of the six kinds of code. -/
theorem decoderIsTotal : Obligations.DecoderIsTotal := by
  intro w
  obtain h | h | h | h | h | h := cmd_cases w
  · exact .inl ⟨h, decode_code_construct h⟩
  · exact .inr (.inl ⟨h, decode_code_referenceVoltage h⟩)
  · exact .inr (.inr (.inl ⟨h, decode_code_readRaw h⟩))
  · exact .inr (.inr (.inr (.inl ⟨h, decode_code_readVoltage h⟩)))
  · exact .inr (.inr (.inr (.inr (.inl ⟨h, decode_code_readScaledU16 h⟩))))
  · exact .inr (.inr (.inr (.inr (.inr ⟨h, decode_reserved h⟩))))

/-- Settles O11: both machines take the next command through `issueNext`, which refuses what decodes to nothing. -/
theorem reservedCodesRefused : Obligations.ReservedCodesRefused := by
  intro s w rest hr ha hc hcode
  have hd : decode w = none := decode_reserved (codeDefined_eq_false_iff.mpr hcode)
  rw [step_accepting hr ha, microStep_accepting hr ha]
  exact ⟨issueNext_reserved hc hd, issueNext_reserved hc hd⟩

/-- Settles O12: the operand by `vref_present`, and 3.3 rounded in each of the two formats. -/
theorem constructOperandDecode : Obligations.ConstructOperandDecode := by
  refine ⟨fun w hc hp => ?present, fun w hc hp => ?absent, fun _ => rfl, ?default64, rfl, ?default32⟩
  case present => rw [decode_code_construct hc, vrefOperand_present hp]
  case absent => rw [decode_code_construct hc, vrefOperand_absent hp]
  case default64 => decide +kernel
  case default32 => decide +kernel

/-- Settles O13: the decoder on ten closed words. -/
theorem decodesWrittenWords : Obligations.DecodesWrittenWords := by
  unfold Obligations.DecodesWrittenWords
  decide

/-- Settles O14: with no operation in hand both machines are `issueNext`, which runs what the next command decodes to. -/
theorem stepRunsTheDecodedCommand : Obligations.StepRunsTheDecodedCommand := by
  intro s w rest i hr ha hc hd
  rw [step_accepting hr ha, microStep_accepting hr ha]
  exact ⟨issueNext_some hc hd, issueNext_some hc hd⟩

end Sys2Proof.Machine

/-! PROOFS. The event-level machine and the machine agree (41_read_raw R100): what the events of one operation lead to
is one step of the machine, so runs of either between states with no operation in hand are runs of the other. -/

namespace Sys2Proof.Machine

/-! ## The operation in hand, event by event -/

@[simp] theorem answer_phase (r : XferAnswer) (s : State) : (answer r s).phase = .answered := by
  cases r with
  | ok b0 b1 => rw [answer_ok_eq]
  | err e => rw [answer_err_eq]

@[simp] theorem answer_resetLine (r : XferAnswer) (s : State) : (answer r s).resetLine = s.resetLine := by
  cases r with
  | ok b0 b1 => rw [answer_ok_eq]
  | err e => rw [answer_err_eq]

@[simp] theorem release_phase (s : State) : (release s).phase = .idle := by
  rw [release_eq]

theorem continueOperation_selected {s : State} (hp : s.phase = .selected) :
    continueOperation s = awaitAnswer (request s) := by
  rw [continueOperation, hp]

theorem continueOperation_wait {s : State} (hp : s.phase = .wait) : continueOperation s = awaitAnswer s := by
  rw [continueOperation, hp]

theorem continueOperation_answered {s : State} (hp : s.phase = .answered) : continueOperation s = release s := by
  rw [continueOperation, hp]

/-- A transaction is its first event followed by all the others. -/
theorem transaction_eq_continueOperation (op : ReadOp) (s : State) :
    transaction op s = continueOperation (select op s) := rfl

/-- In WAIT with an answer to come, the rest of the operation is the answer and then the release. -/
theorem awaitAnswer_eq_release_takeAnswer {s : State} (ht : s.transport ≠ []) :
    awaitAnswer s = release (takeAnswer s) := by
  obtain ⟨r, rest, ht⟩ := List.exists_cons_of_ne_nil ht
  rw [awaitAnswer_answered ht, takeAnswer_answered ht]

theorem takeAnswer_phase {s : State} (ht : s.transport ≠ []) : (takeAnswer s).phase = .answered := by
  obtain ⟨r, rest, ht⟩ := List.exists_cons_of_ne_nil ht
  rw [takeAnswer_answered ht, answer_phase]

@[simp] theorem takeAnswer_resetLine (s : State) : (takeAnswer s).resetLine = s.resetLine := by
  cases ht : s.transport with
  | nil => rw [takeAnswer_silent ht]
  | cons r rest => rw [takeAnswer_answered ht, answer_resetLine]

theorem microCore_run_one {s t : State} (h : microStep s = .next t) : microCore.run 1 s = .next t :=
  microCore_run_succ h

section InHand

variable {s : State} (hr : s.resetLine = false)
include hr

theorem microCore_run_answered (hp : s.phase = .answered) : microCore.run 1 s = .next (continueOperation s) := by
  rw [continueOperation_answered hp]
  exact microCore_run_one (microStep_answered hr hp)

theorem microCore_run_wait_answered (hp : s.phase = .wait) (ht : s.transport ≠ []) :
    microCore.run 2 s = .next (continueOperation s) := by
  rw [microCore_run_succ (microStep_wait hr hp), continueOperation_wait hp, awaitAnswer_eq_release_takeAnswer ht,
    ← continueOperation_answered (takeAnswer_phase ht)]
  exact microCore_run_answered (by rwa [takeAnswer_resetLine]) (takeAnswer_phase ht)

theorem microStep_wait_silent (hp : s.phase = .wait) (ht : s.transport = []) : microStep s = .next s := by
  rw [microStep_wait hr hp, takeAnswer_silent ht]

theorem microCore_run_wait_silent (hp : s.phase = .wait) (ht : s.transport = []) :
    microCore.run 1 s = .next (continueOperation s) := by
  rw [continueOperation_wait hp, awaitAnswer_silent ht]
  exact microCore_run_one (microStep_wait_silent hr hp ht)

theorem microCore_run_selected_answered (hp : s.phase = .selected) (ht : s.transport ≠ []) :
    microCore.run 3 s = .next (continueOperation s) := by
  rw [microCore_run_succ (microStep_selected hr hp)]
  rw [continueOperation_selected hp, ← continueOperation_wait rfl]
  exact microCore_run_wait_answered (s := request s) hr rfl ht

theorem microCore_run_selected_silent (hp : s.phase = .selected) (ht : s.transport = []) :
    microCore.run 1 s = .next (continueOperation s) := by
  rw [continueOperation_selected hp, awaitAnswer_silent (by exact ht)]
  exact microCore_run_one (microStep_selected hr hp)

/-- A step of the machine that goes on with the operation in hand is a run of the event-level machine. -/
theorem continueOperation_is_microCore_run (ha : s.phase.active = true) :
    ∃ n, 1 ≤ n ∧ microCore.run n s = .next (continueOperation s) := by
  obtain hp | hp | hp := Phase.active_cases ha
  · by_cases ht : s.transport = []
    · exact ⟨1, le_rfl, microCore_run_selected_silent hr hp ht⟩
    · exact ⟨3, by decide, microCore_run_selected_answered hr hp ht⟩
  · by_cases ht : s.transport = []
    · exact ⟨1, le_rfl, microCore_run_wait_silent hr hp ht⟩
    · exact ⟨2, by decide, microCore_run_wait_answered hr hp ht⟩
  · exact ⟨1, le_rfl, microCore_run_answered hr hp⟩

end InHand

/-! ## From the machine to the event-level machine -/

/-- An instruction's meaning as a run of the event-level machine: `issue`, and for a read the events after it. -/
theorem exec_is_issue_and_microCore_run {i : Instr} {s t : State} (hr : s.resetLine = false)
    (h : exec i s = .next t) : ∃ s' n, issue i s = .next s' ∧ microCore.run n s' = .next t := by
  obtain ⟨v, rfl, hp, rfl⟩ | ⟨rfl, hp, rfl⟩ | ⟨op, rfl, hp, rfl⟩ := exec_next h
  · exact ⟨_, 0, exec_construct v hp, rfl⟩
  · exact ⟨_, 0, exec_referenceVoltage hp, rfl⟩
  · obtain ⟨n, -, hn⟩ := continueOperation_is_microCore_run (s := select op s) hr rfl
    exact ⟨select op s, n, issue_read op hp, hn⟩

/-- Every step of the machine is a run, of one event-level step or more, of the event-level machine. -/
theorem step_is_microCore_run {s t : State} (h : step s = .next t) :
    ∃ n, 1 ≤ n ∧ microCore.run n s = .next t := by
  obtain ⟨hr, rfl⟩ | ⟨hr, ha, hc, rfl⟩ | ⟨w, rest, i, hr, ha, hc, hd, hx⟩ | ⟨hr, ha, rfl⟩ := step_next h
  · exact ⟨1, le_rfl, microCore_run_one (microStep_reset hr)⟩
  · exact ⟨1, le_rfl, microCore_run_one ((microStep_accepting hr ha).trans (issueNext_none hc))⟩
  · obtain ⟨s', n, hi, hn⟩ := exec_is_issue_and_microCore_run (s := { s with commands := rest }) hr hx
    refine ⟨n + 1, n.succ_pos, ?_⟩
    rwa [microCore_run_succ ((microStep_accepting hr ha).trans ((issueNext_some hc hd).trans hi))]
  · exact continueOperation_is_microCore_run hr ha

theorem core_run_is_microCore_run {k : Nat} {s t : State} (h : core.run k s = .next t) :
    ∃ n, k ≤ n ∧ microCore.run n s = .next t := by
  induction k generalizing s with
  | zero => exact ⟨0, le_rfl, h⟩
  | succ k ih =>
    obtain ⟨s', hstep, hrest⟩ := core_run_succ_next h
    obtain ⟨m, hm, hfirst⟩ := step_is_microCore_run hstep
    obtain ⟨n, hn, hthen⟩ := ih hrest
    exact ⟨m + n, by omega, run_add (M := microCore) hfirst hthen⟩

/-- Settles O34: `select` is the first event of the transaction, and three events, or one under silence, are the rest. -/
theorem fourEventsAreOneStep : Obligations.FourEventsAreOneStep := by
  intro op s w rest hr hp hc hd
  have ha : s.phase.active = false := by rw [hp, Phase.active]
  let s₀ : State := { s with commands := rest }
  have hstep : step s = .next (transaction op s₀) := by
    rw [step_accepting hr ha, issueNext_some hc hd, exec_read op (by exact hp)]
  have hfirst : microStep s = .next (select op s₀) := by
    rw [microStep_accepting hr ha, issueNext_some hc hd, issue_read op (by exact hp)]
  refine ⟨transaction op s₀, hstep, fun ht => ⟨?fourEvents, ?idle⟩, fun ht => ⟨?twoEvents, ?waiting⟩⟩
  case fourEvents =>
    rw [microCore_run_succ hfirst, transaction_eq_continueOperation]
    exact microCore_run_selected_answered (s := select op s₀) hr rfl ht
  case idle =>
    rw [transaction, awaitAnswer_eq_release_takeAnswer (by exact ht), release_phase]
  case twoEvents =>
    rw [microCore_run_succ hfirst, transaction_eq_continueOperation]
    exact microCore_run_selected_silent (s := select op s₀) hr rfl ht
  case waiting => rw [transaction_silent op (by exact ht)]

/-- Settles O35: step by step (`step_is_microCore_run`), by induction on the number of steps. -/
theorem everyRunIsAnEventLevelRun : Obligations.EveryRunIsAnEventLevelRun :=
  fun _ _ _ h => core_run_is_microCore_run h

/-! ## From the event-level machine to the machine -/

/-- A run that ends elsewhere than it begins takes the first step. -/
theorem microCore_run_moves {n : Nat} {s s' t : State} (hstep : microStep s = .next s') (hne : s ≠ t)
    (h : microCore.run n s = .next t) : ∃ m, n = m + 1 ∧ microCore.run m s' = .next t := by
  cases n with
  | zero =>
    exact absurd (Host.Outcome.next.inj h) hne
  | succ m => exact ⟨m, rfl, by rwa [microCore_run_succ hstep] at h⟩

theorem ne_of_active {s t : State} (hs : s.phase.active = true) (ht : t.phase.active = false) : s ≠ t := by
  rintro rfl
  simp [hs] at ht

section Closing

variable {n : Nat} {s t : State} (hr : s.resetLine = false) (ht : t.phase.active = false)
  (h : microCore.run n s = .next t)
include hr ht h

theorem microCore_run_from_answered (hp : s.phase = .answered) :
    ∃ m, m < n ∧ microCore.run m (continueOperation s) = .next t := by
  obtain ⟨m, rfl, hm⟩ :=
    microCore_run_moves (microStep_answered hr hp) (ne_of_active (by rw [hp, Phase.active]) ht) h
  exact ⟨m, m.lt_succ_self, by rwa [continueOperation_answered hp]⟩

/-- Under silence no run leaves WAIT, so the transport has an answer. -/
theorem microCore_run_from_wait (hp : s.phase = .wait) :
    ∃ m, m < n ∧ microCore.run m (continueOperation s) = .next t := by
  have hne : s ≠ t := ne_of_active (by rw [hp, Phase.active]) ht
  by_cases hsilent : s.transport = []
  · have hfixed : microCore.run n s = .next s := run_fixed (M := microCore) (microStep_wait_silent hr hp hsilent) n
    exact absurd (Host.Outcome.next.inj (hfixed.symm.trans h)) hne
  · obtain ⟨m, rfl, hm⟩ := microCore_run_moves (microStep_wait hr hp) hne h
    obtain ⟨m', hlt, hm'⟩ :=
      microCore_run_from_answered (by rwa [takeAnswer_resetLine]) ht hm (takeAnswer_phase hsilent)
    refine ⟨m', by omega, ?_⟩
    rwa [continueOperation_wait hp, awaitAnswer_eq_release_takeAnswer hsilent,
      ← continueOperation_answered (takeAnswer_phase hsilent)]

theorem microCore_run_from_selected (hp : s.phase = .selected) :
    ∃ m, m < n ∧ microCore.run m (continueOperation s) = .next t := by
  obtain ⟨m, rfl, hm⟩ :=
    microCore_run_moves (microStep_selected hr hp) (ne_of_active (by rw [hp, Phase.active]) ht) h
  obtain ⟨m', hlt, hm'⟩ := microCore_run_from_wait (s := request s) hr ht hm rfl
  exact ⟨m', by omega, by rwa [continueOperation_selected hp, ← continueOperation_wait rfl]⟩

/-- A run that ends with no operation in hand passes through the end of the one in hand at its beginning. -/
theorem microCore_run_closes (ha : s.phase.active = true) :
    ∃ m, m < n ∧ microCore.run m (continueOperation s) = .next t := by
  obtain hp | hp | hp := Phase.active_cases ha
  · exact microCore_run_from_selected hr ht h hp
  · exact microCore_run_from_wait hr ht h hp
  · exact microCore_run_from_answered hr ht h hp

end Closing

/-- The first event-level step of a run that ends with no operation in hand belongs to a step of the machine, after
which a shorter run remains. -/
theorem step_then_microCore_run {n : Nat} {s t : State} (ht : t.phase.active = false)
    (h : microCore.run (n + 1) s = .next t) :
    ∃ s' m, m ≤ n ∧ step s = .next s' ∧ microCore.run m s' = .next t := by
  obtain ⟨s₁, hfirst, hn⟩ := microCore_run_succ_next h
  have hinHand (hr : s.resetLine = false) (ha : s.phase.active = true) :
      ∃ s' m, m ≤ n ∧ step s = .next s' ∧ microCore.run m s' = .next t := by
    obtain ⟨m, hm, hrun⟩ := microCore_run_closes hr ht h ha
    exact ⟨_, m, by omega, step_active hr ha, hrun⟩
  obtain ⟨hr, rfl⟩ | ⟨hr, ha, hc, rfl⟩ | ⟨w, rest, i, hr, ha, hc, hd, hx⟩ | ⟨hr, hp, -⟩ | ⟨hr, hp, -⟩ | ⟨hr, hp, -⟩ :=
    microStep_next hfirst
  · exact ⟨_, n, le_rfl, step_reset hr, hn⟩
  · exact ⟨_, n, le_rfl, (step_accepting hr ha).trans (issueNext_none hc), hn⟩
  · have hstep : step s = exec i { s with commands := rest } := (step_accepting hr ha).trans (issueNext_some hc hd)
    obtain ⟨v, rfl, -, -⟩ | ⟨rfl, -, -⟩ | ⟨op, rfl, hp, rfl⟩ := issue_next hx
    · exact ⟨_, n, le_rfl, hstep.trans hx, hn⟩
    · exact ⟨_, n, le_rfl, hstep.trans hx, hn⟩
    · obtain ⟨m, hm, hrun⟩ := microCore_run_closes (s := select op { s with commands := rest }) hr ht hn rfl
      exact ⟨_, m, hm.le, hstep.trans (exec_read op hp), hrun⟩
  · exact hinHand hr (by rw [hp, Phase.active])
  · exact hinHand hr (by rw [hp, Phase.active])
  · exact hinHand hr (by rw [hp, Phase.active])

theorem microCore_run_is_core_run {n : Nat} {s t : State} (ht : t.phase.active = false)
    (h : microCore.run n s = .next t) : ∃ k, k ≤ n ∧ core.run k s = .next t := by
  induction n using Nat.strong_induction_on generalizing s with
  | _ n ih =>
    cases n with
    | zero => exact ⟨0, le_rfl, h⟩
    | succ n =>
      obtain ⟨s', m, hm, hstep, hrest⟩ := step_then_microCore_run ht h
      obtain ⟨k, hk, hrun⟩ := ih m (by omega) hrest
      exact ⟨k + 1, by omega, by rwa [core_run_succ hstep]⟩

/-- Settles O36: by strong induction on the number of event-level steps, one step of the machine at a time. -/
theorem eventLevelRunsBetweenOperationsAreRuns : Obligations.EventLevelRunsBetweenOperationsAreRuns :=
  fun _ _ _ _ ht h => microCore_run_is_core_run ht h

end Sys2Proof.Machine

/-! PROOFS. The invariants: what every event of either machine keeps, every run of either machine keeps. The invariant of
the reachable states (10_state R31), the select line (10_state R23), and the growth of the trace and the outcomes
(20_memory R50). -/

namespace Sys2Proof.Machine

/-! ## Invariance, event by event -/

/-- `P` is kept by everything the event-level machine does, each in the phase it does it in. -/
structure KeptByEvents (P : State → Prop) : Prop where
  hardwareReset {s : State} : P s → s.resetLine = true → P (hardwareReset s)
  commands {s : State} (cs : List CommandWord) : P s → P { s with commands := cs }
  constructed {s : State} (v : Option FloatBits) : P s → s.phase = .unbuilt → P (constructed v s)
  referenceVoltage {s : State} : P s → s.phase = .idle → P (endWith (.ok (.reference s.vref)) s)
  select {s : State} (op : ReadOp) : P s → s.phase = .idle → P (select op s)
  request {s : State} : P s → s.phase = .selected → P (request s)
  answer {s : State} (r : XferAnswer) (rest : List XferAnswer) : P s → s.phase = .wait →
    P (answer r { s with transport := rest })
  release {s : State} : P s → s.phase = .answered → P (release s)

namespace KeptByEvents

variable {P : State → Prop} (hP : KeptByEvents P) {s t : State}
include hP

theorem takeAnswer (h : P s) (hp : s.phase = .wait) : P (takeAnswer s) := by
  cases ht : s.transport with
  | nil => rwa [takeAnswer_silent ht]
  | cons r rest =>
    rw [takeAnswer_answered ht]
    exact hP.answer r rest h hp

theorem issue {i : Instr} (h : P s) (hx : issue i s = .next t) : P t := by
  obtain ⟨v, -, hp, rfl⟩ | ⟨-, hp, rfl⟩ | ⟨op, -, hp, rfl⟩ := issue_next hx
  · exact hP.constructed v h hp
  · exact hP.referenceVoltage h hp
  · exact hP.select op h hp

theorem microStep (h : P s) (hs : microStep s = .next t) : P t := by
  obtain ⟨hr, rfl⟩ | ⟨-, -, -, rfl⟩ | ⟨_, rest, _, -, -, -, -, hx⟩ | ⟨-, hp, rfl⟩ | ⟨-, hp, rfl⟩ | ⟨-, hp, rfl⟩ :=
    microStep_next hs
  · exact hP.hardwareReset h hr
  · exact h
  · exact hP.issue (hP.commands rest h) hx
  · exact hP.request h hp
  · exact hP.takeAnswer h hp
  · exact hP.release h hp

theorem microCore_run {k : Nat} (h : P s) (hk : microCore.run k s = .next t) : P t :=
  run_keeps (M := microCore) (P := P) (fun _ _ => hP.microStep) h hk

/-- A run of the machine is one of the event-level machine. -/
theorem core_run {k : Nat} (h : P s) (hk : core.run k s = .next t) : P t := by
  obtain ⟨n, -, hn⟩ := core_run_is_microCore_run hk
  exact hP.microCore_run h hn

theorem run {k : Nat} (h : P s) (hk : core.run k s = .next t ∨ microCore.run k s = .next t) : P t :=
  hk.elim (hP.core_run h) (hP.microCore_run h)

theorem step (h : P s) (hs : step s = .next t) : P t :=
  hP.core_run (k := 1) h (core_run_succ hs)

end KeptByEvents

/-! ## The select line -/

namespace CsMatchesPhase

variable {s : State}

theorem of_unbuilt (hp : s.phase = .unbuilt) : CsMatchesPhase s := by
  simp [CsMatchesPhase, hp, Phase.active]

theorem of_idle (hp : s.phase = .idle) (hcs : s.cs = .inactive) : CsMatchesPhase s := by
  simp [CsMatchesPhase, hp, hcs, Phase.active]

theorem of_active (ha : s.phase.active = true) (hcs : s.cs = .active) : CsMatchesPhase s := by
  refine ⟨fun hp => ?_, fun _ => hcs⟩
  simp [hp, Phase.active] at ha

theorem constructed (v : Option FloatBits) (s : State) : CsMatchesPhase (constructed v s) :=
  of_idle rfl rfl

theorem select (op : ReadOp) (s : State) : CsMatchesPhase (select op s) :=
  of_active rfl rfl

theorem request (h : CsMatchesPhase s) (ha : s.phase.active = true) : CsMatchesPhase (request s) :=
  of_active rfl (h.2 ha)

theorem answer (r : XferAnswer) (h : CsMatchesPhase s) (ha : s.phase.active = true) : CsMatchesPhase (answer r s) :=
  of_active (by rw [answer_phase, Phase.active]) (by rw [answer_cs, h.2 ha])

theorem release (s : State) : CsMatchesPhase (release s) :=
  of_idle (release_phase s) (release_cs s)

/-- On the failure path the release drives the line as on the other. -/
theorem keptByEvents : KeptByEvents CsMatchesPhase where
  hardwareReset _ _ := of_unbuilt rfl
  commands _ h := h
  constructed v _ _ := constructed v _
  referenceVoltage h _ := h
  select op _ _ := select op _
  request h hp := h.request (by rw [hp, Phase.active])
  answer r _ h hp := answer r h (by simp [hp, Phase.active])
  release _ _ := release _

end CsMatchesPhase

/-- With no answer to come and no reset, a run of either machine stays where it waits. -/
theorem run_silent {s : State} (hp : s.phase = .wait) (ht : s.transport = []) (hr : s.resetLine = false) (k : Nat) :
    core.run k s = .next s ∧ microCore.run k s = .next s := by
  have hstep : step s = .next s := by rw [step_wait hr hp, awaitAnswer_silent ht]
  exact ⟨run_fixed (M := core) hstep k, run_fixed (M := microCore) (microStep_wait_silent hr hp ht) k⟩

/-- Settles O41: CONSTRUCT establishes `CsMatchesPhase`, every event keeps it, and silence leads nowhere else. -/
theorem selectLineMatchesPhase : Obligations.SelectLineMatchesPhase := by
  refine ⟨fun _ => .of_unbuilt, fun v s hp => ⟨constructed v s, exec_construct v hp, rfl, rfl⟩,
    fun _ _ _ => CsMatchesPhase.keptByEvents.run, fun k s hcs hp ht hr => ?silent⟩
  case silent =>
    obtain ⟨hcore, hmicro⟩ := run_silent hp ht hr k
    exact ⟨s, hcore, hmicro, hcs.2 (by rw [hp, Phase.active])⟩

/-! ## The invariant of the reachable states -/

@[simp] theorem answer_vref (r : XferAnswer) (s : State) : (answer r s).vref = s.vref := by
  cases r with
  | ok b0 b1 => rw [answer_ok_eq]
  | err e => rw [answer_err_eq]

@[simp] theorem answer_trace (r : XferAnswer) (s : State) : (answer r s).trace = s.trace ++ [.xferResp r] := by
  cases r with
  | ok b0 b1 => rw [answer_ok_eq]
  | err e => rw [answer_err_eq]

/-- After the answer, ANS and BUF hold it. -/
@[simp] theorem pendingAnswer_answer (r : XferAnswer) (s : State) : pendingAnswer (answer r s) = [r] := by
  cases r with
  | ok b0 b1 => rw [answer_ok_eq, pendingAnswer]
  | err e => rw [answer_err_eq, pendingAnswer]

theorem pendingAnswer_of_ne_answered {s : State} (hp : s.phase ≠ .answered) : pendingAnswer s = [] := by
  cases h : s.phase with
  | answered => exact absurd h hp
  | unbuilt => rw [pendingAnswer, h]
  | idle => rw [pendingAnswer, h]
  | selected => rw [pendingAnswer, h]
  | wait => rw [pendingAnswer, h]

/-- What the release returns is an outcome that the pending answer may have. -/
theorem releaseOutcome_of_pendingAnswer {s : State} (hp : s.phase = .answered) :
    ∃ r, pendingAnswer s = [r] ∧ AnswerGives s.vref r (releaseOutcome s) := by
  cases hans : s.ans with
  | ok => exact ⟨.ok s.buf0 s.buf1, by simp [pendingAnswer, hp, hans], s.op, by simp [releaseOutcome, hans]⟩
  | err e => exact ⟨.err e, by simp [pendingAnswer, hp, hans], by simp [AnswerGives, releaseOutcome, hans]⟩

/-- The outcome of a read is not one of CONSTRUCT's or REFERENCE_VOLTAGE's. -/
theorem readOutcomes_releaseOutcome (s : State) : readOutcomes [releaseOutcome s] = [releaseOutcome s] := by
  cases hans : s.ans with
  | ok => cases hop : s.op <;> simp [releaseOutcome, hans, hop, readResult, readOutcomes]
  | err e => simp [releaseOutcome, hans, readOutcomes]

/-- One more event moves the window as the protocol says. -/
theorem scanTrace_snoc {w w' : Window} {a : List Event} (h : scanTrace w a = some w') (e : Event) :
    scanTrace w (a ++ [e]) = w'.next e := by
  rw [scanTrace_append, h, Option.bind_some, scanTrace]
  cases w'.next e <;> rfl

namespace State.Inv

variable {s : State}

/-- With no answer pending, the outcomes of the reads pair off with all the answers. -/
theorem answers_paired (h : s.Inv) (hp : s.phase ≠ .answered) :
    List.Forall₂ (AnswerGives s.vref) (answersIn s.trace) (readOutcomes s.outcomes) := by
  obtain ⟨done, hdone, hpairs⟩ := h.outcomes_come_from_answers
  rw [pendingAnswer_of_ne_answered hp, List.append_nil] at hdone
  rwa [hdone]

/-- The invariant says nothing of what the agents outside present. -/
theorem inputs (h : s.Inv) (cs : List CommandWord) (rs : List XferAnswer) (r : Bool) :
    State.Inv { s with commands := cs, transport := rs, resetLine := r } :=
  ⟨h.cs_matches_phase, h.cs_is_last_driven, h.unbuilt_is_quiet, h.trace_follows_protocol,
    h.outcomes_come_from_answers⟩

/-- In UNBUILT with no event and no outcome the invariant holds, whatever the state elements hold. -/
theorem of_unbuilt (hp : s.phase = .unbuilt) (htrace : s.trace = []) (houtcomes : s.outcomes = []) : s.Inv where
  cs_matches_phase := .of_unbuilt hp
  cs_is_last_driven := by rw [htrace, lastDriven]
  unbuilt_is_quiet _ := ⟨htrace, houtcomes⟩
  trace_follows_protocol := by rw [htrace, hp, scanTrace, windowOf]
  outcomes_come_from_answers := by
    refine ⟨[], ?_, ?_⟩
    · rw [htrace, pendingAnswer_of_ne_answered (by simp [hp])]
      rfl
    · rw [houtcomes]
      exact .nil

theorem constructed (v : Option FloatBits) (h : s.Inv) (hp : s.phase = .unbuilt) : (constructed v s).Inv := by
  obtain ⟨htrace, houtcomes⟩ := h.unbuilt_is_quiet hp
  rw [constructed_eq, htrace, houtcomes]
  exact ⟨.of_idle rfl rfl, rfl, nofun, rfl, [], rfl, .nil⟩

theorem referenceVoltage (h : s.Inv) (hp : s.phase = .idle) : (endWith (.ok (.reference s.vref)) s).Inv where
  cs_matches_phase := h.cs_matches_phase
  cs_is_last_driven := h.cs_is_last_driven
  unbuilt_is_quiet hu := by simp [hp] at hu
  trace_follows_protocol := h.trace_follows_protocol
  outcomes_come_from_answers := by
    have hpairs := h.answers_paired (by simp [hp])
    refine ⟨answersIn s.trace, ?_, ?_⟩
    · rw [pendingAnswer_of_ne_answered (by simp [hp]), List.append_nil, endWith_trace]
    · simpa [readOutcomes] using hpairs

theorem select (op : ReadOp) (h : s.Inv) (hp : s.phase = .idle) : (select op s).Inv := by
  have hpairs := h.answers_paired (by simp [hp])
  rw [select_eq]
  refine ⟨.of_active rfl rfl, by simp [lastDriven], nofun, ?_, answersIn s.trace, ?_, hpairs⟩
  · simp [scanTrace_snoc h.trace_follows_protocol, hp, windowOf, Window.next]
  · simp [answersIn, pendingAnswer]

theorem request (h : s.Inv) (hp : s.phase = .selected) : (request s).Inv := by
  have hpairs := h.answers_paired (by simp [hp])
  rw [request_eq]
  refine ⟨h.cs_matches_phase.request (by rw [hp, Phase.active]), ?_, nofun, ?_, answersIn s.trace, ?_, hpairs⟩
  · simp [h.cs_is_last_driven, lastDriven]
  · simp [scanTrace_snoc h.trace_follows_protocol, hp, windowOf, Window.next]
  · simp [answersIn, pendingAnswer]

theorem answer (r : XferAnswer) (h : s.Inv) (hp : s.phase = .wait) : (answer r s).Inv where
  cs_matches_phase := h.cs_matches_phase.answer r (by rw [hp, Phase.active])
  cs_is_last_driven := by simp [h.cs_is_last_driven, lastDriven]
  unbuilt_is_quiet hu := by simp at hu
  trace_follows_protocol := by simp [scanTrace_snoc h.trace_follows_protocol, hp, windowOf, Window.next]
  outcomes_come_from_answers := by
    refine ⟨answersIn s.trace, ?_, ?_⟩
    · simp [answersIn]
    · rw [answer_vref, answer_outcomes]
      exact h.answers_paired (by simp [hp])

/-- The release turns the pending answer into the one outcome it adds. -/
theorem release (h : s.Inv) (hp : s.phase = .answered) : (release s).Inv := by
  obtain ⟨done, hdone, hpairs⟩ := h.outcomes_come_from_answers
  obtain ⟨r, hr, hgives⟩ := releaseOutcome_of_pendingAnswer hp
  rw [hr] at hdone
  rw [release_eq]
  refine ⟨.of_idle rfl rfl, by simp [lastDriven], nofun, ?_, done ++ [r], ?_, ?_⟩
  · simp [scanTrace_snoc h.trace_follows_protocol, hp, windowOf, Window.next]
  · simp [hdone, answersIn, pendingAnswer]
  · rw [readOutcomes_append, readOutcomes_releaseOutcome]
    exact List.rel_append hpairs (.cons hgives .nil)

theorem keptByEvents : KeptByEvents State.Inv where
  hardwareReset _ _ := of_unbuilt rfl rfl rfl
  commands cs h := h.inputs cs _ _
  constructed v := constructed v
  referenceVoltage := referenceVoltage
  select op := select op
  request := request
  answer r rest h hp := answer r (h.inputs _ rest _) hp
  release := release

/-- From reset, by steps and by inputs, the invariant is never lost. -/
theorem of_reachable (h : Reachable s) : s.Inv := by
  induction h with
  | reset => exact of_unbuilt rfl rfl rfl
  | step _ hs ih => exact keptByEvents.step ih hs
  | input i _ ih => cases i <;> exact ih.inputs _ _ _

end State.Inv

/-- Settles O37: nothing has happened at reset. -/
theorem invHoldsAtReset : Obligations.InvHoldsAtReset := State.Inv.of_unbuilt rfl rfl rfl

/-- Settles O39: every event keeps `State.Inv`. -/
theorem microStepKeepsInv : Obligations.MicroStepKeepsInv := fun _ _ h hs => State.Inv.keptByEvents.microStep h hs

/-- Settles O38: a step of the machine is a run of the event-level machine, each of whose events keeps `State.Inv`. -/
theorem stepKeepsInv : Obligations.StepKeepsInv := fun _ _ h hs => State.Inv.keptByEvents.step h hs

/-- Settles O40: by induction on reachability. -/
theorem reachableStatesHaveInv : Obligations.ReachableStatesHaveInv := fun _ h => State.Inv.of_reachable h

/-! ## The trace and the outcomes of a run -/

/-- `t` is in the run that `s` is in, no earlier than `s`: its trace and outcomes continue those of `s`, and no reset
has begun a new run. -/
structure GrownFrom (s t : State) : Prop where
  trace : s.trace <+: t.trace
  outcomes : s.outcomes <+: t.outcomes
  not_resetting : t.resetLine = false

namespace GrownFrom

variable {s t u : State}

theorem append (h : GrownFrom s t) {es : List Event} {os : List OpOutcome} (htrace : u.trace = t.trace ++ es)
    (houtcomes : u.outcomes = t.outcomes ++ os) (hr : u.resetLine = t.resetLine) : GrownFrom s u where
  trace := htrace ▸ h.trace.trans (List.prefix_append _ _)
  outcomes := houtcomes ▸ h.outcomes.trans (List.prefix_append _ _)
  not_resetting := hr.trans h.not_resetting

theorem keptByEvents (s : State) : KeptByEvents (GrownFrom s) where
  hardwareReset h hr := by simp [h.not_resetting] at hr
  commands _ h := ⟨h.trace, h.outcomes, h.not_resetting⟩
  constructed _ h _ := h.append rfl rfl rfl
  referenceVoltage h _ := h.append (List.append_nil _).symm rfl rfl
  select _ h _ := h.append rfl (List.append_nil _).symm rfl
  request h _ := h.append rfl (List.append_nil _).symm rfl
  answer r _ h _ := h.append (answer_trace r _) (by rw [answer_outcomes, List.append_nil]) (answer_resetLine r _)
  release h _ := h.append (by rw [release_eq]) (by rw [release_eq]) (by rw [release_eq])

end GrownFrom

/-- Settles O43: every event appends to the trace and to the outcomes. -/
theorem traceAndOutcomesOnlyGrow : Obligations.TraceAndOutcomesOnlyGrow := by
  intro k s t hr hk
  have hs : GrownFrom s s := ⟨List.prefix_rfl, List.prefix_rfl, hr⟩
  obtain ⟨htrace, houtcomes, hreset⟩ := (GrownFrom.keptByEvents s).run hs hk
  exact ⟨htrace, houtcomes, hreset⟩

end Sys2Proof.Machine

/-! PROOFS. Acceptance (40_configuration R81), waiting and silence (41_read_raw R101), the arcs of PHASE (10_state R26),
hardware reset (70_reset_and_hazards R150, R151), and runs that finish (R161, R162). -/

namespace Sys2Proof.Machine

/-! ## Acceptance -/

theorem instr_cases (i : Instr) :
    (∃ v, i = .construct v) ∨ i = .referenceVoltage ∨ ∃ op, i = readInstr op := by
  cases i with
  | construct v => exact .inl ⟨v, rfl⟩
  | referenceVoltage => exact .inr (.inl rfl)
  | readRaw => exact .inr (.inr ⟨.readRaw, rfl⟩)
  | readVoltage => exact .inr (.inr ⟨.readVoltage, rfl⟩)
  | readScaledU16 => exact .inr (.inr ⟨.readScaledU16, rfl⟩)

theorem exec_readInstr (op : ReadOp) (s : State) : exec (readInstr op) s = readOperation op s := by
  cases op <;> rfl

/-- With an operation in hand nothing else starts. -/
theorem exec_active (i : Instr) {s : State} (ha : s.phase.active = true) : exec i s = .refused .operationInHand := by
  obtain ⟨v, rfl⟩ | rfl | ⟨op, rfl⟩ := instr_cases i
  · obtain hp | hp | hp := Phase.active_cases ha <;> rw [exec, execConstruct, hp]
  · obtain hp | hp | hp := Phase.active_cases ha <;> rw [exec, execReferenceVoltage, hp]
  · rw [exec_readInstr]
    obtain hp | hp | hp := Phase.active_cases ha <;> rw [readOperation, hp]

theorem exec_unbuilt {i : Instr} {s : State} (hp : s.phase = .unbuilt) (hi : ∀ v, i ≠ .construct v) :
    exec i s = .refused .notConstructed := by
  obtain ⟨v, rfl⟩ | rfl | ⟨op, rfl⟩ := instr_cases i
  · exact absurd rfl (hi v)
  · rw [exec, execReferenceVoltage, hp]
  · rw [exec_readInstr, readOperation, hp]

theorem exec_construct_idle (v : Option FloatBits) {s : State} (hp : s.phase = .idle) :
    exec (.construct v) s = .refused .alreadyConstructed := by
  rw [exec, execConstruct, hp]

/-- Whatever the operands and whatever the transport will say. -/
theorem exec_completes_idle {i : Instr} {s : State} (hp : s.phase = .idle) (hi : ∀ v, i ≠ .construct v) :
    ∃ t, exec i s = .next t := by
  obtain ⟨v, rfl⟩ | rfl | ⟨op, rfl⟩ := instr_cases i
  · exact absurd rfl (hi v)
  · exact ⟨_, exec_referenceVoltage hp⟩
  · exact ⟨_, exec_read op hp⟩

/-- Settles O31: `exec_next` gives the phase of everything that completes, and each refusal has its equation. -/
theorem acceptedExactlyInItsPhase : Obligations.AcceptedExactlyInItsPhase := by
  refine fun i s => ⟨⟨fun ⟨t, ht⟩ => ?phase, fun h => ?completes⟩, exec_active i, exec_unbuilt,
    fun hp ⟨v, hi⟩ => hi ▸ exec_construct_idle v hp⟩
  case phase =>
    obtain ⟨v, rfl, hp, -⟩ | ⟨rfl, hp, -⟩ | ⟨op, rfl, hp, -⟩ := exec_next ht
    · exact .inl ⟨⟨v, rfl⟩, hp⟩
    · exact .inr ⟨nofun, hp⟩
    · exact .inr ⟨fun v hv => construct_ne_readInstr v op hv.symm, hp⟩
  case completes =>
    obtain ⟨⟨v, rfl⟩, hp⟩ | ⟨hi, hp⟩ := h
    · exact ⟨_, exec_construct v hp⟩
    · exact exec_completes_idle hp hi

/-! ## Silence and waiting -/

/-- Settles O27: `transaction_silent`, the fixed point of `run_silent`, and the refusal in WAIT. -/
theorem silentTransportHangsForEver : Obligations.SilentTransportHangsForEver := by
  refine ⟨fun op s hp ht => ⟨transaction op s, exec_read op hp, ?waits⟩,
    fun k s hp ht hr => run_silent hp ht hr k, fun i s hp => exec_active i (by rw [hp, Phase.active])⟩
  case waits =>
    rw [transaction_silent op ht]
    exact ⟨rfl, rfl, rfl, ht, rfl⟩

/-- Settles O28: with no command, a state with no operation in hand steps to itself. -/
theorem quietWithoutCommands : Obligations.QuietWithoutCommands := by
  intro k s ha hc hr
  have hstep : step s = .next s := (step_accepting hr ha).trans (issueNext_none hc)
  have hmicro : microStep s = .next s := (microStep_accepting hr ha).trans (issueNext_none hc)
  exact ⟨run_fixed (M := core) hstep k, run_fixed (M := microCore) hmicro k⟩

/-! ## The arcs of PHASE -/

/-- Settles O33: each event has one arc, and waiting has none. -/
theorem phaseMovesOnlyAlongItsArcs : Obligations.PhaseMovesOnlyAlongItsArcs := by
  intro s t hr hs
  obtain ⟨hr', -⟩ | ⟨-, -, -, rfl⟩ | ⟨w, rest, i, -, -, -, -, hx⟩ | ⟨-, hp, rfl⟩ | ⟨-, hp, rfl⟩ | ⟨-, hp, rfl⟩ :=
    microStep_next hs
  · simp [hr] at hr'
  · exact .inl rfl
  · obtain ⟨v, -, hp, rfl⟩ | ⟨-, -, rfl⟩ | ⟨op, -, hp, rfl⟩ := issue_next hx
    · exact .inr (.inl ⟨hp, rfl⟩)
    · exact .inl rfl
    · exact .inr (.inr (.inl ⟨hp, rfl⟩))
  · exact .inr (.inr (.inr (.inl ⟨hp, rfl⟩)))
  · by_cases ht : s.transport = []
    · exact .inl (by rw [takeAnswer_silent ht])
    · exact .inr (.inr (.inr (.inr (.inl ⟨hp, takeAnswer_phase ht⟩))))
  · exact .inr (.inr (.inr (.inr (.inr ⟨hp, release_phase s⟩))))

theorem exec_leaves_unbuilt {i : Instr} {s t : State} (hp : s.phase = .unbuilt)
    (h : exec i s = .next t ∨ issue i s = .next t) : t.phase = .idle ∧ ∃ v, i = .construct v := by
  have hidle : s.phase ≠ .idle := by simp [hp]
  obtain h | h := h
  · obtain ⟨v, hi, -, rfl⟩ | ⟨-, hp', -⟩ | ⟨-, -, hp', -⟩ := exec_next h
    · exact ⟨rfl, v, hi⟩
    · exact absurd hp' hidle
    · exact absurd hp' hidle
  · obtain ⟨v, hi, -, rfl⟩ | ⟨-, hp', -⟩ | ⟨-, -, hp', -⟩ := issue_next h
    · exact ⟨rfl, v, hi⟩
    · exact absurd hp' hidle
    · exact absurd hp' hidle

/-- A step from UNBUILT without a reset is, of either machine, that of `issueNext`. -/
theorem issueNext_leaves_unbuilt {run : Instr → State → Host.Outcome State Fault Refusal} {s t : State}
    (hrun : ∀ i s, s.phase = .unbuilt → run i s = .next t → t.phase = .idle ∧ ∃ v, i = .construct v)
    (hp : s.phase = .unbuilt) (h : issueNext run s = .next t) (hne : t.phase ≠ .unbuilt) :
    t.phase = .idle ∧ ∃ w rest v, s.commands = w :: rest ∧ decode w = some (.construct v) := by
  obtain ⟨-, rfl⟩ | ⟨w, rest, i, hc, hd, hx⟩ := issueNext_next h
  · exact absurd hp hne
  · obtain ⟨hidle, v, rfl⟩ := hrun i { s with commands := rest } hp hx
    exact ⟨hidle, w, rest, v, hc, hd⟩

/-- Settles O44: from UNBUILT both machines run the next command, which only as a CONSTRUCT completes; and being past
CONSTRUCT is part of the invariant `HoldsVref`. -/
theorem onlyConstructLeavesUnbuilt : Obligations.OnlyConstructLeavesUnbuilt := by
  refine ⟨fun s t hp hs hne => ?leaves, fun k s t hp hr hk => ?stays⟩
  case leaves =>
    have ha : s.phase.active = false := by rw [hp, Phase.active]
    rcases Bool.eq_false_or_eq_true s.resetLine with hr | hr
    · rw [step_reset hr, microStep_reset hr, or_self] at hs
      cases hs
      exact absurd rfl hne
    · rw [step_accepting hr ha, microStep_accepting hr ha] at hs
      obtain hs | hs := hs
      · exact issueNext_leaves_unbuilt (fun _ _ hp h => exec_leaves_unbuilt hp (.inl h)) hp hs hne
      · exact issueNext_leaves_unbuilt (fun _ _ hp h => exec_leaves_unbuilt hp (.inr h)) hp hs hne
  case stays =>
    have hs : HoldsVref s.vref s := ⟨hp, hr, rfl⟩
    obtain hk | hk := hk
    · exact (hs.core_run hk).built
    · exact (hs.microCore_run hk).built

/-! ## Hardware reset -/

/-- Settles O29: both machines serve the reset input first. -/
theorem hardwareResetReturnsToUnbuilt : Obligations.HardwareResetReturnsToUnbuilt := by
  intro s hr
  rw [step_reset hr, microStep_reset hr, hardwareReset_eq]
  exact ⟨_, _, _, _, _, rfl, rfl⟩

/-- Settles O30: the fields of `State.reset`. -/
theorem resetIsUnbuiltAndSilent : Obligations.ResetIsUnbuiltAndSilent := ⟨rfl, rfl, rfl, rfl, rfl⟩

/-! ## Runs that finish -/

/-- How many answers of the transport an operation takes. -/
def answersTaken (w : CommandWord) : Nat := readsIn [w]

theorem readsIn_cons (w : CommandWord) (rest : List CommandWord) :
    readsIn (w :: rest) = answersTaken w + readsIn rest := by
  simp only [answersTaken, readsIn]
  split <;> omega

/-- A command that has a meaning in IDLE takes no answer, or it is a read and takes one. -/
theorem acceptedInIdle_cases {w : CommandWord} (h : acceptedInIdle w = true) :
    (decode w = some .referenceVoltage ∧ answersTaken w = 0) ∨
    ∃ op, decode w = some (readInstr op) ∧ answersTaken w = 1 := by
  unfold acceptedInIdle at h
  split at h
  · cases h
  next hd => exact .inl ⟨hd, by simp [answersTaken, readsIn, hd]⟩
  next hd => exact .inr ⟨.readRaw, hd, by simp [answersTaken, readsIn, hd]⟩
  next hd => exact .inr ⟨.readVoltage, hd, by simp [answersTaken, readsIn, hd]⟩
  next hd => exact .inr ⟨.readScaledU16, hd, by simp [answersTaken, readsIn, hd]⟩
  · cases h

theorem transaction_answered {op : ReadOp} {s : State} {r : XferAnswer} {rest : List XferAnswer}
    (ht : s.transport = r :: rest) :
    (transaction op s).phase = .idle ∧ (transaction op s).transport = rest ∧
    (transaction op s).commands = s.commands ∧ (transaction op s).resetLine = s.resetLine ∧
    (transaction op s).outcomes.length = s.outcomes.length + 1 := by
  cases r with
  | ok b0 b1 => simp [transaction_ok op ht]
  | err e => simp [transaction_err op ht]

/-- One operation, with the answer it takes to come, is one step with one outcome, back to IDLE. -/
theorem step_accepted {s : State} {w : CommandWord} {rest : List CommandWord} (hp : s.phase = .idle)
    (hr : s.resetLine = false) (hc : s.commands = w :: rest) (hw : acceptedInIdle w = true)
    (hanswers : answersTaken w ≤ s.transport.length) :
    ∃ t, step s = .next t ∧ t.phase = .idle ∧ t.resetLine = false ∧ t.commands = rest ∧
      t.outcomes.length = s.outcomes.length + 1 ∧ t.transport = s.transport.drop (answersTaken w) := by
  have ha : s.phase.active = false := by rw [hp, Phase.active]
  obtain ⟨hd, htaken⟩ | ⟨op, hd, htaken⟩ := acceptedInIdle_cases hw
  · refine ⟨endWith (.ok (.reference s.vref)) { s with commands := rest }, ?_, hp, hr, rfl, ?_, ?_⟩
    · rw [step_accepting hr ha, issueNext_some hc hd, exec_referenceVoltage (by exact hp)]
    · simp
    · simp [htaken]
  · rw [htaken] at hanswers ⊢
    obtain ⟨r, answers, ht⟩ := List.exists_cons_of_length_pos hanswers
    obtain ⟨hidle, htransport, hcommands, hreset, houtcomes⟩ :=
      transaction_answered (op := op) (s := { s with commands := rest }) ht
    refine ⟨transaction op { s with commands := rest }, ?_, hidle, hreset.trans hr, hcommands, houtcomes, ?_⟩
    · rw [step_accepting hr ha, issueNext_some hc hd, exec_read op (by exact hp)]
    · rw [htransport, ht, List.drop_one, List.tail_cons]

/-- Settles O45: by induction on the host's commands, one step (`step_accepted`) each. -/
theorem runFinishesIfTransportAnswers : Obligations.RunFinishesIfTransportAnswers := by
  intro s hp hr haccepted henough
  induction hc : s.commands generalizing s with
  | nil => exact ⟨s, rfl, ⟨hc, hp⟩, rfl, rfl⟩
  | cons w rest ih =>
    rw [hc] at haccepted henough
    rw [readsIn_cons] at henough ⊢
    obtain ⟨hw, hrest⟩ := List.forall_mem_cons.mp haccepted
    obtain ⟨s', hstep, hp', hr', hc', hout', htrans'⟩ := step_accepted hp hr hc hw (by omega)
    have henough' : readsIn rest ≤ s'.transport.length := by
      rw [htrans', List.length_drop]
      omega
    obtain ⟨t, hrun, hfinished, hout, htrans⟩ := ih s' hp' hr' (by rwa [hc']) (by rwa [hc']) hc'
    refine ⟨t, ?_, hfinished, ?_, ?_⟩
    · rw [List.length_cons, core_run_succ hstep, hrun]
    · rw [hout, hout', List.length_cons]
      omega
    · rw [htrans, htrans', List.drop_drop]

end Sys2Proof.Machine

/-! PROOFS. The read operations whole (41_read_raw R90, 42_scaled_reads R110 and R115), their four events (41_read_raw R96
to R99), and what a read's result does not depend on (41_read_raw R95, 60_exceptions R138). -/

namespace Sys2Proof.Machine

/-! ## A read, for each thing the transport can do -/

theorem exec_read_ok (op : ReadOp) {s : State} {b0 b1 : Byte} {rest : List XferAnswer} (hp : s.phase = .idle)
    (ht : s.transport = .ok b0 b1 :: rest) :
    exec (readInstr op) s = .next
      { s with op := op, ans := .ok, buf0 := b0, buf1 := b1, cs := .inactive, transport := rest,
               trace := s.trace ++ [.csWrite .active, .xferReq 2, .xferResp (.ok b0 b1), .csWrite .inactive],
               outcomes := s.outcomes ++ [.ok (readResult op s.vref b0 b1)] } := by
  rw [exec_read op hp, transaction_ok op ht, hp]

theorem exec_read_err (op : ReadOp) {s : State} {e : TransportError} {rest : List XferAnswer} (hp : s.phase = .idle)
    (ht : s.transport = .err e :: rest) :
    ∃ x y n, exec (readInstr op) s = .next
      { s with op := op, ans := .err e, buf0 := x, buf1 := y, draws := n, cs := .inactive, transport := rest,
               trace := s.trace ++ [.csWrite .active, .xferReq 2, .xferResp (.err e), .csWrite .inactive],
               outcomes := s.outcomes ++ [.err e] } :=
  ⟨_, _, _, by rw [exec_read op hp, transaction_err op ht, hp]⟩

theorem exec_read_silent (op : ReadOp) {s : State} (hp : s.phase = .idle) (ht : s.transport = []) :
    exec (readInstr op) s = .next
      { s with op := op, cs := .active, phase := .wait, trace := s.trace ++ [.csWrite .active, .xferReq 2] } := by
  rw [exec_read op hp, transaction_silent op ht]

theorem readInstr_ne_construct (op : ReadOp) (v : Option FloatBits) : readInstr op ≠ .construct v :=
  (construct_ne_readInstr v op).symm

theorem exec_read_refused (op : ReadOp) {s : State} (hp : s.phase ≠ .idle) :
    ∃ r, exec (readInstr op) s = .refused r := by
  rcases Bool.eq_false_or_eq_true s.phase.active with ha | ha
  · exact ⟨_, exec_active _ ha⟩
  · obtain hp' | hp' := Phase.inactive_cases ha
    · exact ⟨_, exec_unbuilt hp' (readInstr_ne_construct op)⟩
    · exact absurd hp' hp

/-- Settles O18: the four cases of a read; the value of READ_RAW is `extract`, written out. -/
theorem readRawTransaction : Obligations.ReadRawTransaction :=
  ⟨fun _ _ _ _ hp ht => exec_read_ok .readRaw hp ht, fun _ _ _ hp ht => exec_read_err .readRaw hp ht,
    fun _ hp ht => exec_read_silent .readRaw hp ht, fun _ hp => exec_read_refused .readRaw hp,
    Laws.EncodeCode.readRaw⟩

/-- Settles O19: the four cases of a read; the value of READ_VOLTAGE is `voltage`, written out. -/
theorem readVoltageTransaction : Obligations.ReadVoltageTransaction :=
  ⟨fun _ _ _ _ hp ht => exec_read_ok .readVoltage hp ht, fun _ _ _ hp ht => exec_read_err .readVoltage hp ht,
    fun _ hp ht => exec_read_silent .readVoltage hp ht, fun _ hp => exec_read_refused .readVoltage hp,
    Laws.EncodeCode.readVoltage⟩

/-- Settles O20: the four cases of a read; the value of READ_SCALED_U16 is `scaleU16`, written out. -/
theorem readScaledU16Transaction : Obligations.ReadScaledU16Transaction :=
  ⟨fun _ _ _ _ hp ht => exec_read_ok .readScaledU16 hp ht, fun _ _ _ hp ht => exec_read_err .readScaledU16 hp ht,
    fun _ hp ht => exec_read_silent .readScaledU16 hp ht, fun _ hp => exec_read_refused .readScaledU16 hp,
    Laws.EncodeCode.readScaledU16⟩

/-! ## The four events -/

theorem release_of_err {s : State} {e : TransportError} (hans : s.ans = .err e) : release s = takeTransportError e s := by
  rw [release, hans]

/-- Settles O24: the writes of taking the exception, which is what the release is after an error. -/
theorem takingTheExceptionSavesNothing : Obligations.TakingTheExceptionSavesNothing := by
  refine ⟨takeTransportError_eq, fun e s hp hr hans => ?_⟩
  rw [microStep_answered hr hp, release_of_err hans]

/-- Settles O32: the event-level step in each phase, and the whole state it leads to. -/
theorem fourStepsOfATransaction : Obligations.FourStepsOfATransaction := by
  refine ⟨fun op s hp => ?select, fun s hr hp => ?request, fun s b0 b1 rest hr hp ht => ?answerOk,
    fun s e rest hr hp ht => ?answerErr, fun s hr hp => ⟨releaseOutcome s, ?value, ?error, ?release⟩⟩
  case select => rw [issue_read op hp, select_eq]
  case request => rw [microStep_selected hr hp, request_eq]
  case answerOk => rw [microStep_wait hr hp, takeAnswer_answered ht, answer_ok_eq]
  case answerErr =>
    rw [microStep_wait hr hp, takeAnswer_answered ht, answer_err_eq]
    exact ⟨_, _, _, rfl⟩
  case value => exact fun hans => by rw [releaseOutcome, hans]
  case error => exact fun e hans => by rw [releaseOutcome, hans]
  case release => rw [microStep_answered hr hp, release_eq]

/-! ## After a failure -/

/-- `s` and `t` agree in all that the next operation goes by, and shows but for the trace and the outcomes so far. -/
structure SameToNextOperation (s t : State) : Prop where
  phase : s.phase = t.phase
  cs : s.cs = t.cs
  vref : s.vref = t.vref
  transport : s.transport = t.transport
  commands : s.commands = t.commands

/-- From `s` to `u` and from `t` to `v` the same has been added to the outcomes and to the trace. -/
def SameAdded (s u t v : State) : Prop :=
  ∃ newOutcomes newEvents, u.outcomes = s.outcomes ++ newOutcomes ∧ v.outcomes = t.outcomes ++ newOutcomes ∧
    u.trace = s.trace ++ newEvents ∧ v.trace = t.trace ++ newEvents

theorem SameToNextOperation.transaction {s t : State} (h : SameToNextOperation s t) (op : ReadOp) :
    SameToNextOperation (transaction op s) (transaction op t) ∧
      SameAdded s (transaction op s) t (transaction op t) := by
  obtain ht | ⟨b0, b1, rest, ht⟩ | ⟨e, rest, ht⟩ := transport_cases s
  · rw [transaction_silent op ht, transaction_silent op (h.transport ▸ ht)]
    exact ⟨⟨rfl, rfl, h.vref, h.transport, h.commands⟩, [], _, by simp, by simp, rfl, rfl⟩
  · rw [transaction_ok op ht, transaction_ok op (h.transport ▸ ht), h.vref]
    exact ⟨⟨rfl, rfl, rfl, rfl, h.commands⟩, _, _, rfl, rfl, rfl, rfl⟩
  · rw [transaction_err op ht, transaction_err op (h.transport ▸ ht)]
    exact ⟨⟨rfl, rfl, h.vref, rfl, h.commands⟩, _, _, rfl, rfl, rfl, rfl⟩

/-- An operation goes by nothing else: not by BUF, OP, ANS, the free values, or what a run has shown so far. -/
theorem SameToNextOperation.exec {s t u : State} {i : Instr} (h : SameToNextOperation s t)
    (hx : exec i s = .next u) : ∃ v, exec i t = .next v ∧ SameToNextOperation u v ∧ SameAdded s u t v := by
  obtain ⟨v, rfl, hp, rfl⟩ | ⟨rfl, hp, rfl⟩ | ⟨op, rfl, hp, rfl⟩ := exec_next hx
  · refine ⟨_, exec_construct v (h.phase ▸ hp), ⟨rfl, rfl, rfl, h.transport, h.commands⟩, ?_⟩
    exact ⟨_, _, rfl, rfl, rfl, rfl⟩
  · refine ⟨_, exec_referenceVoltage (h.phase ▸ hp), ⟨h.phase, h.cs, h.vref, h.transport, h.commands⟩, ?_⟩
    exact ⟨_, [], rfl, by rw [h.vref, endWith_outcomes], by simp, by simp⟩
  · exact ⟨_, exec_read op (h.phase ▸ hp), h.transaction op⟩

/-- Settles O26: the state after the failed read and the state before it, without the answer taken, are
`SameToNextOperation`. -/
theorem failureLeavesNoMarkOnLaterOperations : Obligations.FailureLeavesNoMarkOnLaterOperations := by
  intro op s e rest hcs hp ht
  refine ⟨transaction op s, exec_read op hp, fun i u hx => ?_⟩
  have hsame : SameToNextOperation { s with transport := rest } (transaction op s) := by
    rw [transaction_err op ht]
    exact ⟨hp, hcs.1 hp, rfl, rfl, rfl⟩
  obtain ⟨v, hv, hend, outcomes, events, hu, hv', hut, hvt⟩ := hsame.exec hx
  exact ⟨v, outcomes, events, hv, hend.phase.symm, hend.cs.symm, hend.vref.symm, hend.transport.symm,
    hend.commands.symm, hu, hv', hut, hvt⟩

end Sys2Proof.Machine

/-! PROOFS. The frames of a sample (30_encoding R61), the forms of `extract` (R63) and of the 16-bit scaling
(42_scaled_reads R116, R117), and the dependence of a read on its frame alone (41_read_raw R95). -/

namespace Sys2Proof.Machine

/-! ## Which frames make a sample -/

/-- The two fields of the sample are the two low bits of the first byte and the second byte. -/
theorem extract_eq_iff (b0 b1 : Byte) (raw : Sample) :
    extract b0 b1 = raw ↔ b0.extractLsb' 0 2 = raw.extractLsb' 8 2 ∧ b1 = raw.extractLsb' 0 8 := by
  constructor
  · rintro rfl
    exact ⟨(extractLsb'_high_extract b0 b1).symm, (extractLsb'_low_extract b0 b1).symm⟩
  · rintro ⟨hhigh, hlow⟩
    rw [extract_eq_append, hhigh, hlow]
    exact BitVec.extractLsb'_append_extractLsb'

/-- The frame that makes `raw` and holds `ignored` in the six bits `extract` does not look at. -/
def frameOf (raw : Sample) (ignored : BitVec 6) : Byte × Byte := (ignored ++ raw.extractLsb' 8 2, raw.extractLsb' 0 8)

theorem frameOf_injective (raw : Sample) : Function.Injective (frameOf raw) := by
  intro x y h
  have hbyte : x ++ raw.extractLsb' 8 2 = y ++ raw.extractLsb' 8 2 := congrArg Prod.fst h
  have hbits := congrArg (BitVec.extractLsb' 2 6) hbyte
  rwa [BitVec.extractLsb'_append_eq_left, BitVec.extractLsb'_append_eq_left] at hbits

theorem extract_eq_iff_exists_frameOf (f : Byte × Byte) (raw : Sample) :
    extract f.1 f.2 = raw ↔ ∃ ignored, frameOf raw ignored = f := by
  rw [extract_eq_iff]
  constructor
  · rintro ⟨hhigh, hlow⟩
    refine ⟨f.1.extractLsb' 2 6, ?_⟩
    rw [frameOf, ← hhigh, ← hlow]
    exact Prod.ext BitVec.extractLsb'_append_extractLsb' rfl
  · rintro ⟨ignored, rfl⟩
    exact ⟨BitVec.extractLsb'_append_eq_right, rfl⟩

theorem extract_frameOf (raw : Sample) (ignored : BitVec 6) :
    extract (frameOf raw ignored).1 (frameOf raw ignored).2 = raw :=
  (extract_eq_iff_exists_frameOf _ _).mpr ⟨ignored, rfl⟩

/-- Settles O4: one frame for each value of the six bits that `extract` does not look at. -/
theorem sixtyFourFramesPerSample : Obligations.SixtyFourFramesPerSample := by
  intro raw
  refine ⟨(List.finRange (2 ^ 6)).map fun k => frameOf raw (.ofFin k), ?nodup, ?length, fun f => ?complete⟩
  case nodup =>
    refine (List.nodup_finRange _).map fun k l hkl => ?_
    exact congrArg BitVec.toFin (frameOf_injective raw hkl)
  case length => rw [List.length_map, List.length_finRange]
  case complete =>
    rw [extract_eq_iff_exists_frameOf, List.mem_map]
    exact ⟨fun ⟨k, _, hk⟩ => ⟨.ofFin k, hk⟩, fun ⟨ignored, h⟩ => ⟨ignored.toFin, List.mem_finRange _, h⟩⟩

/-! ## The forms of `extract` -/

theorem toNat_and_three (b : Byte) : (b &&& 3#8).toNat = b.toNat % 4 :=
  Nat.and_two_pow_sub_one_eq_mod b.toNat 2

theorem extract_toNat_eq_add (b0 b1 : Byte) : (extract b0 b1).toNat = b0.toNat % 4 * 256 + b1.toNat := by
  have hmask : b0.toNat &&& 3 = b0.toNat % 4 := Nat.and_two_pow_sub_one_eq_mod b0.toNat 2
  rw [extract_toNat, hmask, ← Nat.shiftLeft_add_eq_or_of_lt b1.isLt, Nat.shiftLeft_eq]

/-- Only the two low bits of the first byte count. -/
theorem extract_congr {b0 c0 : Byte} (h : b0 &&& 3#8 = c0 &&& 3#8) (b1 : Byte) : extract b0 b1 = extract c0 b1 := by
  have hmod : b0.toNat % 4 = c0.toNat % 4 := by rw [← toNat_and_three, h, toNat_and_three]
  apply BitVec.eq_of_toNat_eq
  rw [extract_toNat_eq_add, extract_toNat_eq_add, hmod]

/-- Settles O2: `extract` as a concatenation and as a sum, of which the other forms follow. -/
theorem extractEquivalentForms : Obligations.ExtractEquivalentForms := by
  refine ⟨fun b0 b1 => ⟨extract_eq_append b0 b1, ?sum, ?mod, ?masked⟩, by decide, by decide⟩
  case sum => rw [extract_toNat_eq_add, toNat_and_three]
  case mod =>
    have hb1 := b1.isLt
    rw [extract_toNat_eq_add]
    omega
  case masked => exact extract_congr (by rw [BitVec.and_assoc, BitVec.and_self]) b1

/-! ## A read depends on its frame alone -/

theorem readResult_congr {op : ReadOp} {v w : FloatBits} {b0 c0 b1 : Byte} (hb : b0 &&& 3#8 = c0 &&& 3#8)
    (hv : op = .readVoltage → v = w) : readResult op v b0 b1 = readResult op w c0 b1 := by
  cases op <;> simp [readResult, extract_congr hb b1, hv]

/-- Settles O25: the outcome is `readResult` of the frame (and VREF), and `frameOf` gives a frame for every sample. -/
theorem readsDependOnlyOnTheirFrame : Obligations.ReadsDependOnlyOnTheirFrame := by
  refine ⟨fun op s t b0 b1 c0 rest rest' hs ht hsans htans hb hv => ?sameOutcome,
    fun raw => ⟨(frameOf raw 0#6).1, (frameOf raw 0#6).2, fun s rest hp hans => ?everySample⟩⟩
  case sameOutcome =>
    obtain ⟨s', hs', hsout⟩ := exec_read_outcomes op hs hsans
    obtain ⟨t', ht', htout⟩ := exec_read_outcomes op ht htans
    exact ⟨s', t', _, hs', ht', hsout, by rw [htout, readResult_congr hb hv]⟩
  case everySample =>
    obtain ⟨t, ht, hout⟩ := exec_read_outcomes .readRaw hp hans
    exact ⟨t, ht, by rw [hout, readResult, extract_frameOf]⟩

/-! ## The 16-bit scaling -/

theorem scaleU16_toNat_eq_add (raw : Sample) : (scaleU16 raw).toNat = raw.toNat * 64 + raw.toNat / 16 := by
  have hlow : raw.toNat >>> 4 < 2 ^ 6 := by rw [Nat.shiftRight_eq_div_pow]; omega
  rw [scaleU16_toNat, ← Nat.shiftLeft_add_eq_or_of_lt hlow, Nat.shiftLeft_eq, Nat.shiftRight_eq_div_pow]

/-- The low six bits are the high six of the sample again. -/
theorem scaleU16_eq_append (raw : Sample) : scaleU16 raw = raw ++ raw.extractLsb' 4 6 := by
  apply BitVec.eq_of_toNat_eq
  have hlow : raw.toNat >>> 4 < 2 ^ 6 := by rw [Nat.shiftRight_eq_div_pow]; omega
  rw [BitVec.toNat_append, BitVec.extractLsb'_toNat, Nat.mod_eq_of_lt hlow, scaleU16_toNat]

/-- Settles O6: all of it is arithmetic on `raw * 64 + raw / 16`; the two counts are evaluated. -/
theorem scaleProperties : Obligations.ScaleProperties := by
  refine ⟨fun raw => ⟨scaleU16_eq_append raw, scaleU16_toNat_eq_add raw, ?inverse, ?above, ?below⟩,
    fun raw hraw => ?steps, by decide, by decide, by decide, by decide, by decide, ?truncated, ?rounded⟩
  case inverse =>
    rw [BitVec.toNat_ushiftRight, scaleU16_toNat_eq_add, Nat.shiftRight_eq_div_pow]
    omega
  case above =>
    have hlow : raw.toNat / 16 ≤ 63 := by omega
    rw [scaleU16_toNat_eq_add]
    omega
  case below =>
    rw [scaleU16_toNat_eq_add]
    omega
  case steps =>
    have hnext : (raw + 1#10).toNat = raw.toNat + 1 := BitVec.toNat_add_of_lt (Nat.succ_lt_succ hraw)
    rw [scaleU16_toNat_eq_add, scaleU16_toNat_eq_add, hnext]
    omega
  case truncated => decide +kernel
  case rounded => decide +kernel

end Sys2Proof.Machine

/-! PROOFS. Rounding (42_scaled_reads R112): the magnitude `roundRatio` gives is monotone in the ratio, exact where the
ratio is a magnitude, nearest to it otherwise, and infinite exactly from half a step beyond the last finite one on. -/

namespace Sys2Proof.Machine

/-! ## The rounding with no bound on the exponent -/

section RawRound

variable {F : FloatFormat} {num den : Nat} (hd : 0 < den) (hf : 0 < F.fracBits)
include hd hf

theorem two_mul_le_of_rawRound :
    2 * num ≤ (magUnits F (rawRound F num den) + magUnits F (rawRound F num den + 1)) * den := by
  obtain ⟨h, -⟩ := rawRound_spec F num den hd hf
  exact h

theorem le_two_mul_of_rawRound (hpos : 0 < rawRound F num den) :
    (magUnits F (rawRound F num den - 1) + magUnits F (rawRound F num den)) * den ≤ 2 * num := by
  obtain ⟨-, h, -⟩ := rawRound_spec F num den hd hf
  exact h hpos

theorem rawRound_even_of_tie_above
    (h : 2 * num = (magUnits F (rawRound F num den) + magUnits F (rawRound F num den + 1)) * den) :
    rawRound F num den % 2 = 0 := by
  obtain ⟨-, -, htie, -⟩ := rawRound_spec F num den hd hf
  exact htie h

theorem rawRound_even_of_tie_below (hpos : 0 < rawRound F num den)
    (h : (magUnits F (rawRound F num den - 1) + magUnits F (rawRound F num den)) * den = 2 * num) :
    rawRound F num den % 2 = 0 := by
  obtain ⟨-, -, -, htie⟩ := rawRound_spec F num den hd hf
  exact htie hpos h

/-- An even magnitude is reached from half a step below it on: the tie itself goes to it. -/
theorem le_rawRound_iff_of_even {k : Nat} (hk : 0 < k) (heven : k % 2 = 0) :
    k ≤ rawRound F num den ↔ (magUnits F (k - 1) + magUnits F k) * den ≤ 2 * num := by
  have hmono := (magUnits_strictMono F).monotone
  constructor
  · intro hle
    refine le_trans (Nat.mul_le_mul_right den ?_) (le_two_mul_of_rawRound hd hf (hk.trans_le hle))
    exact Nat.add_le_add (hmono (Nat.sub_le_sub_right hle 1)) (hmono hle)
  · intro h
    by_contra hlt
    have habove := two_mul_le_of_rawRound (num := num) hd hf
    obtain hlast | hfar : rawRound F num den + 1 = k ∨ rawRound F num den + 1 < k := by omega
    · have htie := rawRound_even_of_tie_above (num := num) hd hf (by
        rw [← hlast, Nat.add_sub_cancel] at h
        omega)
      omega
    · have hstep : magUnits F (rawRound F num den) + magUnits F (rawRound F num den + 1) <
          magUnits F (k - 1) + magUnits F k :=
        Nat.add_lt_add_of_le_of_lt (hmono (by omega)) (magUnits_strictMono F hfar)
      have hscaled := Nat.mul_lt_mul_of_pos_right hstep hd
      omega

/-- A greater ratio is not rounded to a smaller magnitude: if it were, both would be the one tie between two neighbours,
and both neighbours even. -/
theorem rawRound_mono {num' : Nat} (h : num ≤ num') : rawRound F num den ≤ rawRound F num' den := by
  have hmono := (magUnits_strictMono F).monotone
  by_contra hlt
  have habove := two_mul_le_of_rawRound (num := num') hd hf
  have hbelow := le_two_mul_of_rawRound (num := num) hd hf (by omega)
  obtain hnext | hfar : rawRound F num' den = rawRound F num den - 1 ∨
      rawRound F num' den + 1 < rawRound F num den := by omega
  · have hnext' : rawRound F num' den + 1 = rawRound F num den := by omega
    have htie' := rawRound_even_of_tie_above (num := num') hd hf (by rw [hnext', hnext] at habove ⊢; omega)
    have htie := rawRound_even_of_tie_below (num := num) hd hf (by omega) (by rw [hnext', hnext] at habove; omega)
    omega
  · have hstep : magUnits F (rawRound F num' den) + magUnits F (rawRound F num' den + 1) <
        magUnits F (rawRound F num den - 1) + magUnits F (rawRound F num den) :=
      Nat.add_lt_add_of_le_of_lt (hmono (by omega)) (magUnits_strictMono F hfar)
    have hscaled := Nat.mul_lt_mul_of_pos_right hstep hd
    omega

/-- A magnitude is rounded to itself. -/
theorem rawRound_magUnits (m : Nat) : rawRound F (magUnits F m * den) den = m := by
  have hmono := magUnits_strictMono F
  have habove := two_mul_le_of_rawRound (num := magUnits F m * den) hd hf
  have hbelow := le_two_mul_of_rawRound (num := magUnits F m * den) hd hf
  rw [← mul_assoc] at habove hbelow
  replace habove := Nat.le_of_mul_le_mul_right habove hd
  obtain hlt | heq | hgt := lt_trichotomy (rawRound F (magUnits F m * den) den) m
  · have hle : magUnits F (rawRound F (magUnits F m * den) den + 1) ≤ magUnits F m := hmono.monotone hlt
    have hstep := magUnits_step F (rawRound F (magUnits F m * den) den)
    omega
  · exact heq
  · replace hbelow := Nat.le_of_mul_le_mul_right (hbelow (by omega)) hd
    have hle : magUnits F m ≤ magUnits F (rawRound F (magUnits F m * den) den - 1) := hmono.monotone (by omega)
    have hlt := hmono hgt
    omega

end RawRound

/-- How far `num / den` is from magnitude `m`, in parts of `den`. -/
def distanceTo (F : FloatFormat) (num den m : Nat) : Nat := ((num : Int) - (magUnits F m * den : Nat)).natAbs

/-- No magnitude is nearer than the rounded one, and where another is equally near the rounded one is even. -/
theorem rawRound_nearest {F : FloatFormat} {num den : Nat} (hd : 0 < den) (hf : 0 < F.fracBits) (m : Nat) :
    distanceTo F num den (rawRound F num den) ≤ distanceTo F num den m ∧
    (m ≠ rawRound F num den → distanceTo F num den (rawRound F num den) = distanceTo F num den m →
      rawRound F num den % 2 = 0) := by
  have hscale {x y : Nat} (h : x ≤ y) : magUnits F x * den ≤ magUnits F y * den :=
    Nat.mul_le_mul_right den ((magUnits_strictMono F).monotone h)
  unfold distanceTo
  obtain hlt | rfl | hgt := lt_trichotomy (rawRound F num den) m
  · have hm := hscale (show rawRound F num den + 1 ≤ m from hlt)
    have hr := Nat.mul_lt_mul_of_pos_right (magUnits_step F (rawRound F num den)) hd
    have habove := two_mul_le_of_rawRound (num := num) hd hf
    rw [add_mul] at habove
    refine ⟨by omega, fun _ htie => rawRound_even_of_tie_above hd hf ?_⟩
    rw [add_mul]
    omega
  · exact ⟨le_rfl, fun h => absurd rfl h⟩
  · have hpos : 0 < rawRound F num den := by omega
    have hm := hscale (Nat.le_sub_one_of_lt hgt)
    have hr := Nat.mul_lt_mul_of_pos_right (magUnits_strictMono F (Nat.sub_one_lt_of_lt hpos)) hd
    have hbelow := le_two_mul_of_rawRound (num := num) hd hf hpos
    rw [add_mul] at hbelow
    refine ⟨by omega, fun _ htie => rawRound_even_of_tie_below hd hf hpos ?_⟩
    rw [add_mul]
    omega

/-! ## Cut at infinity, in binary64 -/

open Config (binary64)

theorem infMag_binary64 : infMag binary64 = 2047 * 2 ^ 52 := rfl

theorem signWeight_binary64 : signWeight binary64 = 2 ^ 63 := rfl

theorem unitExp_binary64 : unitExp binary64 = 1074 := rfl

theorem fracBits_binary64_pos : 0 < binary64.fracBits := by decide

theorem roundRatio_le_infMag (F : FloatFormat) (num den : Nat) : roundRatio F num den ≤ infMag F := by
  rw [roundRatio_eq]
  exact min_le_right _ _

theorem roundRatio_of_lt_infMag {F : FloatFormat} {num den : Nat} (h : roundRatio F num den < infMag F) :
    roundRatio F num den = rawRound F num den := by
  rw [roundRatio_eq] at h ⊢
  omega

theorem roundRatio_eq_infMag_iff (F : FloatFormat) (num den : Nat) :
    roundRatio F num den = infMag F ↔ infMag F ≤ rawRound F num den := by
  rw [roundRatio_eq, min_eq_right_iff]

theorem roundRatio_mono {num num' den : Nat} (hd : 0 < den) (h : num ≤ num') :
    roundRatio binary64 num den ≤ roundRatio binary64 num' den := by
  rw [roundRatio_eq, roundRatio_eq]
  exact min_le_min_right _ (rawRound_mono hd fracBits_binary64_pos h)

theorem roundRatio_magUnits {m den : Nat} (hd : 0 < den) (hm : m ≤ infMag binary64) :
    roundRatio binary64 (magUnits binary64 m * den) den = m := by
  rw [roundRatio_eq, rawRound_magUnits hd fracBits_binary64_pos, min_eq_left hm]

theorem magUnits_zero : magUnits binary64 0 = 0 := rfl

theorem roundRatio_zero {den : Nat} (hd : 0 < den) : roundRatio binary64 0 den = 0 := by
  simpa [magUnits_zero] using roundRatio_magUnits hd (Nat.zero_le (infMag binary64))

/-- `magUnits_scale` with binary64's significand of 53 bits. -/
theorem magUnits_binary64 {s q : Nat} (hq : 2 ^ 52 ≤ q) (hq' : q < 2 ^ 53) :
    magUnits binary64 (s * 2 ^ 52 + q) = q * 2 ^ s :=
  magUnits_scale binary64 s q (.inl hq) hq'

/-- The last finite magnitude and the one of infinity lie half a step to either side of the overflow threshold. -/
theorem magUnits_around_overflow :
    magUnits binary64 (infMag binary64 - 1) + magUnits binary64 (infMag binary64) = 2 * ((2 ^ 54 - 1) * 2 ^ 2044) := by
  have hlast : infMag binary64 - 1 = 2045 * 2 ^ 52 + (2 ^ 53 - 1) := rfl
  have hinf : infMag binary64 = 2046 * 2 ^ 52 + 2 ^ 52 := rfl
  rw [hlast, hinf, magUnits_binary64 (by decide) (by decide), magUnits_binary64 le_rfl (by decide)]
  rw [pow_succ 2 2045, pow_succ 2 2044]
  generalize 2 ^ 2044 = unit
  omega

/-- `r` is the correctly rounded `num / den` (42_scaled_reads R112), in the words of the obligations. -/
def CorrectlyRounded (num den r : Nat) : Prop :=
  r ≤ infMag binary64 ∧
  (r = infMag binary64 ↔ (2 ^ 54 - 1) * 2 ^ 2044 * den ≤ num) ∧
  (r < infMag binary64 → ∀ m, m < infMag binary64 →
    distanceTo binary64 num den r ≤ distanceTo binary64 num den m ∧
    (m ≠ r → distanceTo binary64 num den r = distanceTo binary64 num den m → r % 2 = 0))

theorem roundRatio_correctlyRounded {num den : Nat} (hd : 0 < den) :
    CorrectlyRounded num den (roundRatio binary64 num den) := by
  refine ⟨roundRatio_le_infMag _ _ _, ?overflow, fun hfinite m _ => ?nearest⟩
  case overflow =>
    rw [roundRatio_eq_infMag_iff, le_rawRound_iff_of_even hd fracBits_binary64_pos (by decide) (by decide),
      magUnits_around_overflow, mul_assoc 2, Nat.mul_le_mul_left_iff (by decide)]
  case nearest =>
    rw [roundRatio_of_lt_infMag hfinite]
    exact rawRound_nearest hd fracBits_binary64_pos m

end Sys2Proof.Machine

/-! PROOFS. FLOAT as a sign and a magnitude (42_scaled_reads R112): `float`, `fmul` and `fdiv` on each, and their correct
rounding. -/

namespace Sys2Proof.Machine

open Config (binary64)

/-! ## Sign and magnitude -/

/-- Is the sign bit of a FLOAT set? -/
def signOf (a : FloatBits) : Bool := floatNeg binary64 a.toNat

/-- The magnitude of a FLOAT. -/
def magOf (a : FloatBits) : Nat := floatMag binary64 a.toNat

/-- The FLOAT of a sign and a magnitude. -/
def packFloat (neg : Bool) (mag : Nat) : FloatBits := BitVec.ofNat 64 (floatPack binary64 neg mag)

/-- The sign bit alone, -0.0. -/
def signBit : FloatBits := 0x8000000000000000#64

theorem isFinite_iff (a : FloatBits) : isFinite a = true ↔ magOf a < infMag binary64 := decide_eq_true_iff

theorem isNaN_iff (a : FloatBits) : isNaN a = true ↔ infMag binary64 < magOf a := decide_eq_true_iff

theorem signOf_eq_msb (a : FloatBits) : signOf a = a.msb := by
  have ha := a.isLt
  rw [signOf, floatNeg, signWeight_binary64, BitVec.msb_eq_decide, Bool.eq_iff_iff, beq_iff_eq, decide_eq_true_iff]
  omega

theorem magOf_eq_toNat_setWidth (a : FloatBits) : magOf a = (a.setWidth 63).toNat := by
  rw [magOf, floatMag, signWeight_binary64, BitVec.toNat_setWidth]

section PackFloat

variable (neg : Bool) {mag : Nat} (h : mag ≤ infMag binary64)
include h

theorem toNat_packFloat : (packFloat neg mag).toNat = (if neg then 2 ^ 63 else 0) + mag := by
  rw [infMag_binary64] at h
  rw [packFloat, floatPack, signWeight_binary64, BitVec.toNat_ofNat, Nat.mod_eq_of_lt]
  split <;> omega

theorem signOf_packFloat : signOf (packFloat neg mag) = neg := by
  rw [signOf, floatNeg, signWeight_binary64, toNat_packFloat neg h, Bool.eq_iff_iff, beq_iff_eq]
  rw [infMag_binary64] at h
  cases neg <;> simp <;> omega

theorem magOf_packFloat : magOf (packFloat neg mag) = mag := by
  rw [magOf, floatMag, signWeight_binary64, toNat_packFloat neg h]
  rw [infMag_binary64] at h
  split <;> omega

end PackFloat

/-- A FLOAT is its sign and its magnitude. -/
theorem floatBits_ext {a b : FloatBits} (hsign : signOf a = signOf b) (hmag : magOf a = magOf b) : a = b := by
  have ha := a.isLt
  have hb := b.isLt
  rw [signOf, signOf, floatNeg, floatNeg, signWeight_binary64, Bool.eq_iff_iff, beq_iff_eq, beq_iff_eq] at hsign
  rw [magOf, magOf, floatMag, floatMag, signWeight_binary64] at hmag
  apply BitVec.eq_of_toNat_eq
  omega

theorem signOf_xor_signBit (a : FloatBits) : signOf (a ^^^ signBit) = !signOf a := by
  rw [signOf_eq_msb, signOf_eq_msb, BitVec.msb_xor]
  exact Bool.xor_true _

theorem magOf_xor_signBit (a : FloatBits) : magOf (a ^^^ signBit) = magOf a := by
  rw [magOf_eq_toNat_setWidth, magOf_eq_toNat_setWidth, BitVec.setWidth_xor]
  exact congrArg BitVec.toNat BitVec.xor_zero

theorem signOf_and_signBit (a : FloatBits) : signOf (a &&& signBit) = signOf a := by
  rw [signOf_eq_msb, signOf_eq_msb, BitVec.msb_and]
  exact Bool.and_true _

theorem magOf_and_signBit (a : FloatBits) : magOf (a &&& signBit) = 0 := by
  rw [magOf_eq_toNat_setWidth, BitVec.setWidth_and]
  exact congrArg BitVec.toNat BitVec.and_zero

/-! ## The operations -/

/-- The magnitude of the product of two finite magnitudes. -/
def mulMag (m n : Nat) : Nat := roundRatio binary64 (magUnits binary64 m * magUnits binary64 n) (2 ^ 1074)

/-- The magnitude of the quotient of two finite magnitudes, the second not zero. -/
def divMag (m n : Nat) : Nat := roundRatio binary64 (magUnits binary64 m * 2 ^ 1074) (magUnits binary64 n)

theorem mulMag_le_infMag (m n : Nat) : mulMag m n ≤ infMag binary64 := roundRatio_le_infMag _ _ _

theorem divMag_le_infMag (m n : Nat) : divMag m n ≤ infMag binary64 := roundRatio_le_infMag _ _ _

theorem magUnits_pos {m : Nat} (h : m ≠ 0) : 0 < magUnits binary64 m := by
  have hlt := magUnits_strictMono binary64 (Nat.pos_of_ne_zero h)
  rwa [magUnits_zero] at hlt

theorem isNaN_nanFrom (free : FloatBits) : isNaN (nanFrom free) = true := by
  unfold nanFrom
  split
  next h => exact h
  next => decide +kernel

section Operations

variable {a b : FloatBits}

theorem fmul_of_mulBits_some {neg : Bool} {mag : Nat}
    (h : mulBits binary64 a.toNat b.toNat = some (floatPack binary64 neg mag)) : fmul a b = packFloat neg mag := by
  simp only [fmul, Config.floatFormat, h, packFloat]

theorem fdiv_of_divBits_some {neg : Bool} {mag : Nat}
    (h : divBits binary64 a.toNat b.toNat = some (floatPack binary64 neg mag)) : fdiv a b = packFloat neg mag := by
  simp only [fdiv, Config.floatFormat, h, packFloat]

theorem isNaN_fmul_of_mulBits_none (h : mulBits binary64 a.toNat b.toNat = none) : isNaN (fmul a b) = true := by
  simp only [fmul, Config.floatFormat, h, isNaN_nanFrom]

theorem isNaN_fdiv_of_divBits_none (h : divBits binary64 a.toNat b.toNat = none) : isNaN (fdiv a b) = true := by
  simp only [fdiv, Config.floatFormat, h, isNaN_nanFrom]

theorem fmul_finite (ha : magOf a < infMag binary64) (hb : magOf b < infMag binary64) :
    fmul a b = packFloat (signOf a != signOf b) (mulMag (magOf a) (magOf b)) := by
  apply fmul_of_mulBits_some
  unfold magOf at *
  simp only [mulBits, if_neg (not_or.mpr ⟨ha.not_gt, hb.not_gt⟩), if_neg ha.ne, if_neg hb.ne, unitExp_binary64,
    mulMag, signOf]

/-- A finite factor other than zero, and an infinite one. -/
theorem fmul_infinite (ha : magOf a < infMag binary64) (ha0 : magOf a ≠ 0) (hb : magOf b = infMag binary64) :
    fmul a b = packFloat (signOf a != signOf b) (infMag binary64) := by
  apply fmul_of_mulBits_some
  unfold magOf at *
  simp only [mulBits, if_neg (not_or.mpr ⟨ha.not_gt, hb.not_gt⟩), if_neg ha.ne, if_pos hb, if_neg ha0, signOf]

/-- A zero times an infinity is not a number. -/
theorem isNaN_fmul_zero_infinite (ha : magOf a < infMag binary64) (ha0 : magOf a = 0)
    (hb : magOf b = infMag binary64) : isNaN (fmul a b) = true := by
  apply isNaN_fmul_of_mulBits_none
  unfold magOf at *
  simp only [mulBits, if_neg (not_or.mpr ⟨ha.not_gt, hb.not_gt⟩), if_neg ha.ne, if_pos hb, if_pos ha0]

theorem isNaN_fmul (h : infMag binary64 < magOf a ∨ infMag binary64 < magOf b) : isNaN (fmul a b) = true := by
  apply isNaN_fmul_of_mulBits_none
  unfold magOf at h
  simp only [mulBits, if_pos h]

theorem fdiv_finite (ha : magOf a < infMag binary64) (hb : magOf b < infMag binary64) (hb0 : magOf b ≠ 0) :
    fdiv a b = packFloat (signOf a != signOf b) (divMag (magOf a) (magOf b)) := by
  apply fdiv_of_divBits_some
  unfold magOf at *
  simp only [divBits, if_neg (not_or.mpr ⟨ha.not_gt, hb.not_gt⟩), if_neg ha.ne, if_neg hb.ne, if_neg hb0,
    unitExp_binary64, divMag, signOf]

/-- An infinite dividend. -/
theorem fdiv_infinite (ha : magOf a = infMag binary64) (hb : magOf b < infMag binary64) :
    fdiv a b = packFloat (signOf a != signOf b) (infMag binary64) := by
  apply fdiv_of_divBits_some
  unfold magOf at *
  simp only [divBits, if_neg (not_or.mpr ⟨ha.not_gt, hb.not_gt⟩), if_pos ha, if_neg hb.ne, signOf]

theorem isNaN_fdiv (h : infMag binary64 < magOf a ∨ infMag binary64 < magOf b) : isNaN (fdiv a b) = true := by
  apply isNaN_fdiv_of_divBits_none
  unfold magOf at h
  simp only [divBits, if_pos h]

end Operations

/-- Settles O47: of finite operands `fmul` is `mulMag` under the product of the signs, and `roundRatio` rounds
correctly. -/
theorem productIsCorrectlyRounded : Obligations.ProductIsCorrectlyRounded := by
  intro a b ha hb F p r
  have hfmul := fmul_finite ((isFinite_iff a).mp ha) ((isFinite_iff b).mp hb)
  have hle := mulMag_le_infMag (magOf a) (magOf b)
  have hsign : signOf (fmul a b) = (signOf a != signOf b) := by rw [hfmul, signOf_packFloat _ hle]
  have hmag : magOf (fmul a b) = mulMag (magOf a) (magOf b) := by rw [hfmul, magOf_packFloat _ hle]
  have hrounded : CorrectlyRounded p (2 ^ 1074) (magOf (fmul a b)) := by
    rw [hmag]
    exact roundRatio_correctlyRounded (pow_pos two_pos 1074)
  exact ⟨hsign, hrounded⟩

/-- Settles O48: of finite operands `fdiv` is `divMag` under the product of the signs, and `roundRatio` rounds
correctly. -/
theorem quotientIsCorrectlyRounded : Obligations.QuotientIsCorrectlyRounded := by
  intro a b ha hb hb0 F n d r
  have hfdiv := fdiv_finite ((isFinite_iff a).mp ha) ((isFinite_iff b).mp hb) hb0
  have hle := divMag_le_infMag (magOf a) (magOf b)
  have hsign : signOf (fdiv a b) = (signOf a != signOf b) := by rw [hfdiv, signOf_packFloat _ hle]
  have hmag : magOf (fdiv a b) = divMag (magOf a) (magOf b) := by rw [hfdiv, magOf_packFloat _ hle]
  have hrounded : CorrectlyRounded n d (magOf (fdiv a b)) := by
    rw [hmag]
    exact roundRatio_correctlyRounded (magUnits_pos hb0)
  exact ⟨hsign, hrounded⟩

end Sys2Proof.Machine

/-! PROOFS. The voltage scaling (42_scaled_reads R110 to R113): the samples are FLOATs exactly, and the voltage is a sign,
VREF's, and a magnitude that grows with the sample. -/

namespace Sys2Proof.Machine

open Config (binary64)

/-! ## The FLOAT of a sample -/

/-- A sample's value is that of a magnitude: its leading bit is at place `e`, so it fits the significand shifted left by
`52 - e`. -/
theorem exists_magUnits_sample {n : Nat} (hn : n ≤ 1023) :
    ∃ m, m < infMag binary64 ∧ magUnits binary64 m = n * 2 ^ 1074 := by
  obtain rfl | hpos := Nat.eq_zero_or_pos n
  · exact ⟨0, by decide, by rw [magUnits_zero, zero_mul]⟩
  have hlow : 2 ^ n.log2 ≤ n := Nat.log2_self_le hpos.ne'
  have hhigh : n < 2 ^ (n.log2 + 1) := Nat.lt_log2_self
  have he : n.log2 < 10 := (Nat.log2_lt hpos.ne').mpr (by omega)
  obtain ⟨k, hk⟩ : ∃ k, 52 = n.log2 + k := Nat.exists_eq_add_of_le (by omega)
  have hq : 2 ^ 52 ≤ n * 2 ^ k := by
    rw [hk, pow_add]
    exact Nat.mul_le_mul_right _ hlow
  have hq' : n * 2 ^ k < 2 ^ 53 := by
    rw [show 53 = n.log2 + 1 + k by omega, pow_add]
    exact Nat.mul_lt_mul_of_pos_right hhigh (Nat.two_pow_pos k)
  refine ⟨(1022 + n.log2) * 2 ^ 52 + n * 2 ^ k, ?_, ?_⟩
  · rw [infMag_binary64]
    omega
  · rw [magUnits_binary64 hq hq', mul_assoc, ← pow_add, show k + (1022 + n.log2) = 1074 by omega]

/-- The magnitude of the FLOAT of a sample. -/
def sampleMag (n : Nat) : Nat := roundRatio binary64 (n * 2 ^ 1074) 1

theorem sampleMag_le_infMag (n : Nat) : sampleMag n ≤ infMag binary64 := roundRatio_le_infMag _ _ _

theorem floatOfNat_eq_packFloat (n : Nat) : floatOfNat n = packFloat false (sampleMag n) := by
  simp only [floatOfNat, Config.floatFormat, ratioBits, unitExp_binary64, packFloat, floatPack, sampleMag,
    Bool.false_eq_true, if_false, zero_add]

theorem sampleMag_spec {n : Nat} (hn : n ≤ 1023) :
    sampleMag n < infMag binary64 ∧ magUnits binary64 (sampleMag n) = n * 2 ^ 1074 := by
  obtain ⟨m, hm, hunits⟩ := exists_magUnits_sample hn
  have hround : sampleMag n = m := by
    rw [sampleMag, ← hunits, ← mul_one (magUnits binary64 m), roundRatio_magUnits Nat.one_pos hm.le]
  rw [hround]
  exact ⟨hm, hunits⟩

theorem signOf_floatOfNat (n : Nat) : signOf (floatOfNat n) = false := by
  rw [floatOfNat_eq_packFloat, signOf_packFloat _ (sampleMag_le_infMag n)]

theorem magOf_floatOfNat (n : Nat) : magOf (floatOfNat n) = sampleMag n := by
  rw [floatOfNat_eq_packFloat, magOf_packFloat _ (sampleMag_le_infMag n)]

/-- Settles O46: the value of a sample is that of a magnitude, which `roundRatio` rounds to itself. -/
theorem floatOfSampleIsExact : Obligations.FloatOfSampleIsExact := by
  intro n hn
  obtain ⟨hfinite, hunits⟩ := sampleMag_spec hn
  refine ⟨signOf_floatOfNat n, (isFinite_iff _).mpr ?_, ?_⟩
  · rwa [magOf_floatOfNat]
  · rw [← hunits, ← magOf_floatOfNat]
    rfl

theorem sampleMag_zero : sampleMag 0 = 0 := by
  rw [sampleMag, zero_mul, roundRatio_zero Nat.one_pos]

theorem sampleMag_ne_zero {n : Nat} (hn : n ≤ 1023) (hpos : n ≠ 0) : sampleMag n ≠ 0 := by
  intro hzero
  obtain ⟨-, hunits⟩ := sampleMag_spec hn
  rw [hzero, magUnits_zero] at hunits
  obtain hn0 | hunit := mul_eq_zero.mp hunits.symm
  · exact hpos hn0
  · exact (pow_pos two_pos 1074).ne' hunit

/-! ## The voltage of a finite VREF -/

theorem mulMag_mono_sample {n n' : Nat} (hn' : n' ≤ 1023) (h : n ≤ n') (m : Nat) :
    mulMag (sampleMag n) m ≤ mulMag (sampleMag n') m := by
  obtain ⟨-, hunits⟩ := sampleMag_spec (h.trans hn')
  obtain ⟨-, hunits'⟩ := sampleMag_spec hn'
  refine roundRatio_mono (pow_pos two_pos 1074) (Nat.mul_le_mul_right _ ?_)
  rw [hunits, hunits']
  exact Nat.mul_le_mul_right _ h

theorem divMag_mono {m m' d : Nat} (hd : d ≠ 0) (h : m ≤ m') : divMag m d ≤ divMag m' d :=
  roundRatio_mono (magUnits_pos hd) (Nat.mul_le_mul_right _ ((magUnits_strictMono binary64).monotone h))

theorem mulMag_zero_left (m : Nat) : mulMag 0 m = 0 := by
  rw [mulMag, magUnits_zero, zero_mul, roundRatio_zero (pow_pos two_pos 1074)]

theorem mulMag_zero_right (m : Nat) : mulMag m 0 = 0 := by
  rw [mulMag, magUnits_zero, mul_zero, roundRatio_zero (pow_pos two_pos 1074)]

theorem divMag_zero {d : Nat} (hd : d ≠ 0) : divMag 0 d = 0 := by
  rw [divMag, magUnits_zero, zero_mul, roundRatio_zero (magUnits_pos hd)]

/-- The magnitude of a product divided by full scale; an infinite product stays infinite. -/
def fullScaleMag (p : Nat) : Nat := if p = infMag binary64 then infMag binary64 else divMag p (sampleMag 1023)

theorem sampleMag_full_ne_zero : sampleMag 1023 ≠ 0 := sampleMag_ne_zero le_rfl (by decide)

theorem fullScaleMag_le_infMag (p : Nat) : fullScaleMag p ≤ infMag binary64 := by
  unfold fullScaleMag
  split
  · exact le_rfl
  · exact divMag_le_infMag _ _

theorem fullScaleMag_zero : fullScaleMag 0 = 0 := by
  rw [fullScaleMag, if_neg (by decide), divMag_zero sampleMag_full_ne_zero]

theorem fullScaleMag_mono {p p' : Nat} (hp' : p' ≤ infMag binary64) (h : p ≤ p') :
    fullScaleMag p ≤ fullScaleMag p' := by
  by_cases hinf : p' = infMag binary64
  · exact (fullScaleMag_le_infMag p).trans_eq (if_pos hinf).symm
  · rw [fullScaleMag, fullScaleMag, if_neg hinf, if_neg (by omega)]
    exact divMag_mono sampleMag_full_ne_zero h

theorem fdiv_fullScale (neg : Bool) {p : Nat} (hp : p ≤ infMag binary64) :
    fdiv (packFloat neg p) (floatOfNat Config.rawMax) = packFloat neg (fullScaleMag p) := by
  obtain ⟨hfull, -⟩ := sampleMag_spec (n := Config.rawMax) le_rfl
  rw [← magOf_floatOfNat] at hfull
  have hfull0 : magOf (floatOfNat Config.rawMax) ≠ 0 := by
    rw [magOf_floatOfNat]
    exact sampleMag_full_ne_zero
  have hsign : (signOf (packFloat neg p) != signOf (floatOfNat Config.rawMax)) = neg := by
    rw [signOf_packFloat _ hp, signOf_floatOfNat, Bool.bne_false]
  unfold fullScaleMag
  split
  next hinf => rw [fdiv_infinite (by rwa [magOf_packFloat _ hp]) hfull, hsign]
  next hinf =>
    rw [fdiv_finite (by rw [magOf_packFloat _ hp]; omega) hfull hfull0, hsign, magOf_packFloat _ hp, magOf_floatOfNat]
    rfl

theorem sample_le (raw : Sample) : raw.toNat ≤ 1023 := Nat.le_of_lt_succ raw.isLt

theorem magOf_sample_lt (raw : Sample) : magOf (floatOfNat raw.toNat) < infMag binary64 := by
  obtain ⟨h, -⟩ := sampleMag_spec (sample_le raw)
  rwa [magOf_floatOfNat]

/-- The magnitude of the voltage of a sample for a VREF of magnitude `m`. -/
def voltageMag (raw : Sample) (m : Nat) : Nat := fullScaleMag (mulMag (sampleMag raw.toNat) m)

theorem voltageMag_le_infMag (raw : Sample) (m : Nat) : voltageMag raw m ≤ infMag binary64 := fullScaleMag_le_infMag _

/-- 42_scaled_reads R113: the voltage has VREF's sign. -/
theorem voltage_finite (raw : Sample) {v : FloatBits} (hv : isFinite v = true) :
    voltage raw v = packFloat (signOf v) (voltageMag raw (magOf v)) := by
  rw [voltage, fmul_finite (magOf_sample_lt raw) ((isFinite_iff v).mp hv), fdiv_fullScale _ (mulMag_le_infMag _ _),
    signOf_floatOfNat, magOf_floatOfNat, Bool.false_bne]
  rfl

theorem signOf_voltage (raw : Sample) {v : FloatBits} (hv : isFinite v = true) :
    signOf (voltage raw v) = signOf v := by
  rw [voltage_finite raw hv, signOf_packFloat _ (voltageMag_le_infMag _ _)]

theorem magOf_voltage (raw : Sample) {v : FloatBits} (hv : isFinite v = true) :
    magOf (voltage raw v) = voltageMag raw (magOf v) := by
  rw [voltage_finite raw hv, magOf_packFloat _ (voltageMag_le_infMag _ _)]

theorem voltageMag_sample_zero (m : Nat) : voltageMag 0#10 m = 0 := by
  rw [voltageMag, BitVec.toNat_ofNat, Nat.zero_mod, sampleMag_zero, mulMag_zero_left, fullScaleMag_zero]

theorem voltageMag_zero (raw : Sample) : voltageMag raw 0 = 0 := by
  rw [voltageMag, mulMag_zero_right, fullScaleMag_zero]

theorem voltageMag_mono {raw raw' : Sample} (h : raw ≤ raw') (m : Nat) : voltageMag raw m ≤ voltageMag raw' m :=
  fullScaleMag_mono (mulMag_le_infMag _ _) (mulMag_mono_sample (sample_le raw') h m)

/-- 42_scaled_reads R110 (a). -/
theorem voltage_sample_zero {v : FloatBits} (hv : isFinite v = true) : voltage 0#10 v = v &&& signBit := by
  apply floatBits_ext
  · rw [signOf_voltage _ hv, signOf_and_signBit]
  · rw [magOf_voltage _ hv, voltageMag_sample_zero, magOf_and_signBit]

/-- A zero VREF gives a zero of the same sign. -/
theorem voltage_zero (raw : Sample) {v : FloatBits} (hv : magOf v = 0) : voltage raw v = v := by
  have hfinite : isFinite v = true := (isFinite_iff v).mpr (by rw [hv]; decide)
  apply floatBits_ext
  · exact signOf_voltage raw hfinite
  · rw [magOf_voltage raw hfinite, hv, voltageMag_zero]

theorem voltage_mono {raw raw' : Sample} {v : FloatBits} (hv : isFinite v = true) (h : raw ≤ raw') :
    (voltage raw v).toNat ≤ (voltage raw' v).toNat := by
  rw [voltage_finite raw hv, voltage_finite raw' hv, toNat_packFloat _ (voltageMag_le_infMag _ _),
    toNat_packFloat _ (voltageMag_le_infMag _ _)]
  exact Nat.add_le_add_left (voltageMag_mono h _) _

/-- 42_scaled_reads R113: negating VREF negates the voltage. -/
theorem voltage_negated (raw : Sample) {v : FloatBits} (hv : isFinite v = true) :
    voltage raw (v ^^^ signBit) = voltage raw v ^^^ signBit := by
  have hv' : isFinite (v ^^^ signBit) = true := by rwa [isFinite_iff, magOf_xor_signBit, ← isFinite_iff]
  apply floatBits_ext
  · rw [signOf_voltage _ hv', signOf_xor_signBit, signOf_xor_signBit, signOf_voltage _ hv]
  · rw [magOf_voltage _ hv', magOf_xor_signBit, magOf_xor_signBit, magOf_voltage _ hv]

/-- Settles O49: sign and magnitude of the voltage, which both roundings keep in the samples' order. -/
theorem voltageIsMonotone : Obligations.VoltageIsMonotone := by
  rintro v ⟨hv, -⟩
  refine ⟨voltage_sample_zero hv, fun raw => signOf_voltage raw hv, ?negativeZero, fun _ _ => voltage_mono hv⟩
  case negativeZero =>
    rintro rfl raw
    exact voltage_zero raw (by decide)

/-! ## Infinite and not-a-number VREF -/

theorem voltage_infinity {raw : Sample} (h : raw ≠ 0#10) :
    voltage raw 0x7FF0000000000000#64 = 0x7FF0000000000000#64 := by
  have hraw : raw.toNat ≠ 0 := fun hzero => h (BitVec.eq_of_toNat_eq hzero)
  have hmag : magOf (floatOfNat raw.toNat) ≠ 0 := by
    rw [magOf_floatOfNat]
    exact sampleMag_ne_zero (sample_le raw) hraw
  rw [voltage, fmul_infinite (magOf_sample_lt raw) hmag (by decide), fdiv_fullScale _ le_rfl, signOf_floatOfNat,
    fullScaleMag, if_pos rfl]
  decide

theorem isNaN_voltage_of_isNaN_fmul {raw : Sample} {v : FloatBits} (h : isNaN (fmul (floatOfNat raw.toNat) v) = true) :
    isNaN (voltage raw v) = true :=
  isNaN_fdiv (.inl ((isNaN_iff _).mp h))

/-- Settles O50: the zero, the negation and the special values by sign and magnitude; the one at 3.3 is evaluated. -/
theorem voltageAtSpecialValues : Obligations.VoltageAtSpecialValues := by
  refine ⟨fun v => voltage_sample_zero, ?fullScale, fun raw v => voltage_negated raw,
    fun raw => voltage_zero raw (by decide), ?zeroTimesInfinity, fun raw => voltage_infinity, fun raw v hv => ?nan⟩
  case fullScale => decide +kernel
  case zeroTimesInfinity =>
    refine isNaN_voltage_of_isNaN_fmul (isNaN_fmul_zero_infinite (magOf_sample_lt _) ?_ (by decide))
    exact (magOf_floatOfNat 0).trans sampleMag_zero
  case nan => exact isNaN_voltage_of_isNaN_fmul (isNaN_fmul (.inr ((isNaN_iff v).mp hv)))

end Sys2Proof.Machine
